-- ==== Sys2Proof/Word.lean ====
section
/-! DEFINITION. The widths of the spec's numbers (00_scope.md R5, R6): every one an unsigned bit vector. -/

namespace Sys2Proof

/-- A byte, `u8`: a byte on the wire, a brightness, a byte of host memory. -/
abbrev Byte := BitVec 8

/-- A coordinate or an RGB565 colour, `u16`. -/
abbrev Half := BitVec 16

/-- An RGB888 colour or the immediate field of a descriptor, `u24`. -/
abbrev Imm := BitVec 24

/-- A descriptor word, a host address, a count, a response, `u32`. -/
abbrev Word := BitVec 32

end Sys2Proof
end

