-- ==== Sys2Proof/Config.lean ====
section
/-! DEFINITION. The implementation parameters of 00_scope.md R5 (`cfg`, 10_state.md R21) and the free values.
A parameter that R5 marks OPEN, and every value the spec calls unspecified after `teardown`, is an opaque
constant: no proof can see which value it has. -/

namespace Sys2Proof

/-- `cfg` (10_state.md R21): the parameters of 00_scope.md R5, fixed for the life of an instance. -/
structure Params where
  /-- `PANEL_W` -/
  panelW : Half
  /-- `PANEL_H` -/
  panelH : Half
  /-- `ROT_TABLE[0..3]` (10_state.md R35) -/
  rotTable : Vector Byte 4
  /-- `CHUNK_BYTES` (40_transport.md R105) -/
  chunkBytes : Word
  /-- `BATCH_PIXELS` (44_drawing.md R180) -/
  batchPixels : Word
  /-- `T_RST_SETTLE`, ms -/
  tRstSettle : Nat
  /-- `T_RST_PULSE`, ms -/
  tRstPulse : Nat
  /-- `T_RST_RECOVER`, ms -/
  tRstRecover : Nat
  /-- `INIT_DELAY[3..9]`, ms: entry `k` here is `INIT_DELAY[k + 3]` (42_addressing.md R141) -/
  initDelay : Vector Nat 7
  /-- `CALIB_TABLE`: command byte and parameter bytes (30_encoding.md R92) -/
  calibTable : List (Byte × List Byte)
  /-- `cfg.dma_capable` (41_dma.md R120) -/
  dmaCapable : Bool
  /-- `DMA_CLAIM_OK` (41_dma.md R120) -/
  dmaClaimOk : Bool
  /-- `TRANSPORT_INIT_OK` (42_addressing.md R142) -/
  transportInitOk : Bool
  /-- `SPI_CLOCK_HZ`: read by no rule -/
  spiClockHz : Nat
  /-- `SPI_BIT_ORDER`, true for most significant bit first: read by no rule (20_memory.md R57) -/
  spiMsbFirst : Bool
  /-- `SPI_MODE`: read by no rule (20_memory.md R57) -/
  spiMode : BitVec 2
  /-- `CS_ACTIVE_LEVEL`: read by no rule -/
  csActiveLevel : Bool
  /-- `DC_COMMAND_LEVEL`: read by no rule -/
  dcCommandLevel : Bool
  /-- `PTR_BITS`: how many bits of `W3` are the pointer, and the size of host memory (30_encoding.md R70,
  20_memory.md R50; log 10) -/
  ptrBits : Nat
  /-- `LEN_BITS`: how many bits of `W4` are the length (30_encoding.md R70; log 10) -/
  lenBits : Nat
deriving DecidableEq, Repr

/-- The parameter values 00_scope.md R5 admits: a panel has at least one pixel (10_state.md R25 uses
`PANEL_H - 1`), the chunk and batch sizes are positive, and a pointer and a length fit the 32-bit words that carry
them (30_encoding.md R70; log 10). The reset delays may be any natural numbers: that an instance may hold them below the
10, 20 and 120 ms R5 calls minimums is a DESIGN CHOICE (log 24). -/
def Params.admitted (c : Params) : Bool :=
  c.panelW != 0 && c.panelH != 0 && c.chunkBytes != 0 && c.batchPixels != 0 &&
    decide (1 ≤ c.ptrBits ∧ c.ptrBits ≤ 32) && decide (1 ≤ c.lenBits ∧ c.lenBits ≤ 32)

/-- `CALIB_TABLE`, OPEN (30_encoding.md R92: "a model must not assume any content"). -/
opaque Config.calibTable : List (Byte × List Byte)

/-- `INIT_DELAY[3..9]`, OPEN (91_not_in_source.md N4). -/
opaque Config.initDelay : Vector Nat 7

/-- `cfg.dma_capable`, OPEN (91_not_in_source.md N12). -/
opaque Config.dmaCapable : Bool

/-- `SPI_CLOCK_HZ`, OPEN. -/
opaque Config.spiClockHz : Nat

/-- `SPI_BIT_ORDER`, OPEN. -/
opaque Config.spiMsbFirst : Bool

/-- `SPI_MODE`, OPEN. -/
opaque Config.spiMode : BitVec 2

/-- `CS_ACTIVE_LEVEL`, OPEN. -/
opaque Config.csActiveLevel : Bool

/-- `DC_COMMAND_LEVEL`, OPEN. -/
opaque Config.dcCommandLevel : Bool

/-- The free value drawn at index `k`: what a register of unspecified value holds after `teardown`
(42_addressing.md R151 with 10_state.md R36; log 5). -/
opaque Config.freeWord : Nat → Word

/-- What the reference sink's bounds and cursor hold before a command sets them: 20_memory.md R64 gives them no first
value, so each is a free value (log 21). -/
opaque Config.sinkStart : Nat → Half

/-- The parameters of the instance: the values 00_scope.md R5 gives, the OPEN ones opaque (logs 9, 10). -/
def Config.params : Params where
  panelW := 320
  panelH := 480
  rotTable := #v[0x48, 0x28, 0x88, 0xE8]
  chunkBytes := 4096
  batchPixels := 256
  tRstSettle := 10
  tRstPulse := 20
  tRstRecover := 120
  initDelay := Config.initDelay
  calibTable := Config.calibTable
  dmaCapable := Config.dmaCapable
  dmaClaimOk := true
  transportInitOk := true
  spiClockHz := Config.spiClockHz
  spiMsbFirst := Config.spiMsbFirst
  spiMode := Config.spiMode
  csActiveLevel := Config.csActiveLevel
  dcCommandLevel := Config.dcCommandLevel
  ptrBits := 32
  lenBits := 32

end Sys2Proof
end

