-- ==== Sys2Proof/Syntax.lean ====
section
/-! DEFINITION. The instructions: the 26 host operations of 30_encoding.md R74 and the 12 wire commands of
R80 to R91, one constructor per row of spec/opcode_table.json, and the words that carry them. -/

namespace Sys2Proof

/-- A request descriptor: five 32-bit words taken by value (30_encoding.md R70). -/
structure Descriptor where
  w0 : Word
  w1 : Word
  w2 : Word
  w3 : Word
  w4 : Word
deriving DecidableEq, Repr

/-- The operand latch `op.*` (10_state.md R32), loaded from a descriptor's fields (30_encoding.md R70). -/
structure OperandLatch where
  code : Byte
  imm : Imm
  x0 : Half
  y0 : Half
  x1 : Half
  y1 : Half
  ptr : Word
  len : Word
deriving DecidableEq, Repr

/-- The instructions. Operands are the fields the row's format reads (30_encoding.md R71, R72); a wire
command's operands are its parameter bytes, two bytes of a bound as one `u16` (R78, R86 to R91). -/
inductive Instr where
  /-- 0x40, R102 -/
  | writeCommand (byte : Byte)
  /-- 0x41, R103 -/
  | writeData (byte : Byte)
  /-- 0x42, R104 -/
  | writeDataBuffer (ptr len : Word)
  /-- 0x43, R120 -/
  | writeDataDMA (ptr len : Word)
  /-- 0x44, R121 -/
  | isTransferBusy
  /-- 0x45, R122 -/
  | waitTransferIdle
  /-- 0x46, R106 -/
  | reset
  /-- 0x47, R107 -/
  | setBacklight (flag : Bool)
  /-- 0x48, R108 -/
  | setBacklightBrightness (level : Byte)
  /-- 0x50, R141: the table's `initialize`, a word Lean reserves -/
  | initializeBlock (ptr : Word)
  /-- 0x51, R146 -/
  | setWindow (x0 y0 x1 y1 : Half)
  /-- 0x52, R147 -/
  | setRotation (rot : BitVec 2)
  /-- 0x53, R148 -/
  | setPartialMode (flag : Bool)
  /-- 0x54, R149 -/
  | setPartialArea (y0 y1 : Half)
  /-- 0x55, R150 -/
  | writeDMA (ptr len : Word)
  /-- 0x5F, R151 -/
  | teardown
  /-- 0x60, R183 -/
  | drawPixel (x y : Half) (c565 : Half)
  /-- 0x61, R184 -/
  | drawPixelRGB24 (x y : Half) (c888 : Imm)
  /-- 0x62, R185 -/
  | fillArea (x0 y0 x1 y1 : Half) (c565 : Half)
  /-- 0x63, R186 -/
  | fillAreaRGB24 (x0 y0 x1 y1 : Half) (c888 : Imm)
  /-- 0x64, R187 -/
  | fillScreen (c565 : Half)
  /-- 0x65, R188 -/
  | fillScreenRGB24 (c888 : Imm)
  /-- 0x66, R189 -/
  | writePixels (x0 y0 x1 y1 : Half) (ptr len : Word)
  /-- 0x67, R190 -/
  | writePixelsRGB24 (x0 y0 x1 y1 : Half) (ptr len : Word)
  /-- 0x70, R171 -/
  | rgb565ToRgb666 (c565 : Half)
  /-- 0x71, R172 -/
  | rgb888ToRgb666 (c888 : Imm)
  /-- wire 0x01, R80 -/
  | wireReset
  /-- wire 0x11, R81 -/
  | wireSleepOut
  /-- wire 0x12, R82 -/
  | wirePartialModeOn
  /-- wire 0x13, R83 -/
  | wireNormalModeOn
  /-- wire 0x21, R84 -/
  | wireDisplayInvertOn
  /-- wire 0x29, R85 -/
  | wireDisplayOn
  /-- wire 0x2A, R86: first and last column -/
  | wireColumnAddressSet (a0 a1 : Half)
  /-- wire 0x2B, R87: first and last row -/
  | wireRowAddressSet (b0 b1 : Half)
  /-- wire 0x2C, R88: no parameters of its own -/
  | wireMemoryWrite
  /-- wire 0x30, R89: first and last row of the band -/
  | wirePartialArea (p0 p1 : Half)
  /-- wire 0x36, R90 -/
  | wireMemoryAccessControl (bits : Byte)
  /-- wire 0x3A, R91 -/
  | wirePixelFormat (fmt : Byte)
deriving DecidableEq, Repr

/-- The alias `isDMABusy` (30_encoding.md R77). -/
abbrev Instr.isDMABusy : Instr := .isTransferBusy

/-- The alias `waitDMAComplete` (30_encoding.md R77). -/
abbrev Instr.waitDMAComplete : Instr := .waitTransferIdle

/-- The public API's `writeDataDMA` is the engine's `writeDMA` (30_encoding.md R77, 90_conflicts.md C4). -/
abbrev Instr.publicWriteDataDMA (ptr len : Word) : Instr := .writeDMA ptr len

/-- The mnemonic of each instruction, as 30_encoding.md R74 and spec/opcode_table.json write it. -/
def Instr.mnemonic : Instr → String
  | .writeCommand _ => "writeCommand"
  | .writeData _ => "writeData"
  | .writeDataBuffer _ _ => "writeDataBuffer"
  | .writeDataDMA _ _ => "writeDataDMA"
  | .isTransferBusy => "isTransferBusy"
  | .waitTransferIdle => "waitTransferIdle"
  | .reset => "reset"
  | .setBacklight _ => "setBacklight"
  | .setBacklightBrightness _ => "setBacklightBrightness"
  | .initializeBlock _ => "initialize"
  | .setWindow _ _ _ _ => "setWindow"
  | .setRotation _ => "setRotation"
  | .setPartialMode _ => "setPartialMode"
  | .setPartialArea _ _ => "setPartialArea"
  | .writeDMA _ _ => "writeDMA"
  | .teardown => "teardown"
  | .drawPixel _ _ _ => "drawPixel"
  | .drawPixelRGB24 _ _ _ => "drawPixelRGB24"
  | .fillArea _ _ _ _ _ => "fillArea"
  | .fillAreaRGB24 _ _ _ _ _ => "fillAreaRGB24"
  | .fillScreen _ => "fillScreen"
  | .fillScreenRGB24 _ => "fillScreenRGB24"
  | .writePixels _ _ _ _ _ _ => "writePixels"
  | .writePixelsRGB24 _ _ _ _ _ _ => "writePixelsRGB24"
  | .rgb565ToRgb666 _ => "rgb565_to_rgb666"
  | .rgb888ToRgb666 _ => "rgb888_to_rgb666"
  | .wireReset => "wire.reset"
  | .wireSleepOut => "wire.sleep-out"
  | .wirePartialModeOn => "wire.partial-mode-on"
  | .wireNormalModeOn => "wire.normal-mode-on"
  | .wireDisplayInvertOn => "wire.display-invert-on"
  | .wireDisplayOn => "wire.display-on"
  | .wireColumnAddressSet _ _ => "wire.column-address-set"
  | .wireRowAddressSet _ _ => "wire.row-address-set"
  | .wireMemoryWrite => "wire.memory-write"
  | .wirePartialArea _ _ => "wire.partial-area"
  | .wireMemoryAccessControl _ => "wire.memory-access-control"
  | .wirePixelFormat _ => "wire.pixel-format"

end Sys2Proof
end

