-- ==== Sys2Proof/WellFormed.lean ====
section
/-! DEFINITION. Which instructions are well formed. Every value a host operation's operand field can hold is
legal (30_encoding.md R72), so only wire commands have a condition. -/

namespace Sys2Proof

/-- The conditions 30_encoding.md puts on a wire command's parameters: a window's first bound is not above
its last (R86, R87), nor a band's (R89 with 42_addressing.md R149), and the pixel format is 0x66 (R91).
The parameter of memory-access-control is an entry of `ROT_TABLE`, a parameter of the model, so no
condition stands here (R90). -/
def Instr.wellFormed : Instr → Bool
  | .wireColumnAddressSet a0 a1 => a0 ≤ a1
  | .wireRowAddressSet b0 b1 => b0 ≤ b1
  | .wirePartialArea p0 p1 => p0 ≤ p1
  | .wirePixelFormat fmt => fmt == 0x66
  | .writeCommand _ | .writeData _ | .writeDataBuffer _ _ | .writeDataDMA _ _ | .isTransferBusy
  | .waitTransferIdle | .reset | .setBacklight _ | .setBacklightBrightness _ | .initializeBlock _
  | .setWindow _ _ _ _ | .setRotation _ | .setPartialMode _ | .setPartialArea _ _ | .writeDMA _ _
  | .teardown | .drawPixel _ _ _ | .drawPixelRGB24 _ _ _ | .fillArea _ _ _ _ _
  | .fillAreaRGB24 _ _ _ _ _ | .fillScreen _ | .fillScreenRGB24 _ | .writePixels _ _ _ _ _ _
  | .writePixelsRGB24 _ _ _ _ _ _ | .rgb565ToRgb666 _ | .rgb888ToRgb666 _ | .wireReset
  | .wireSleepOut | .wirePartialModeOn | .wireNormalModeOn | .wireDisplayInvertOn | .wireDisplayOn
  | .wireMemoryWrite | .wireMemoryAccessControl _ => true

end Sys2Proof
end

