-- ==== Sys2Proof/Decode.lean ====
section
/-! DEFINITION. The decoder of host descriptors (30_encoding.md R70 to R76) and of wire commands (R78 to R91),
each total and rejecting by name, and after them the encoder. -/

namespace Sys2Proof

/-- The high byte of a `u16`, `hi8` (00_scope.md R6). -/
def hi8 (v : Half) : Byte := v.extractLsb' 8 8

/-- The low byte of a `u16`, `lo8` (00_scope.md R6). -/
def lo8 (v : Half) : Byte := v.extractLsb' 0 8

/-- The two bytes of a bound, most significant first (20_memory.md R56). -/
def bigEndian (v : Half) : List Byte := [hi8 v, lo8 v]

/-- A `u16` from its two bytes, most significant first (20_memory.md R56). -/
def ofBigEndian (hi lo : Byte) : Half := hi ++ lo

/-- The operand latch a descriptor loads (30_encoding.md R70). -/
def Descriptor.operands (d : Descriptor) : OperandLatch where
  code := d.w0.extractLsb' 24 8
  imm := d.w0.extractLsb' 0 24
  x0 := d.w1.extractLsb' 16 16
  y0 := d.w1.extractLsb' 0 16
  x1 := d.w2.extractLsb' 16 16
  y1 := d.w2.extractLsb' 0 16
  ptr := d.w3
  len := d.w4

/-- The low `bits` bits of a word, the rest 0. -/
def lowBits (bits : Nat) (w : Word) : Word := BitVec.ofNat 32 (w.toNat % 2 ^ bits)

/-- The descriptor as a port with `PTR_BITS` and `LEN_BITS` takes it: the bits of `W3` and `W4` beyond the widths are
no part of a field, so they are ignored (00_scope.md R5, 30_encoding.md R70, R76; log 10). -/
def Descriptor.taken (ptrBits lenBits : Nat) (d : Descriptor) : Descriptor :=
  { d with w3 := lowBits ptrBits d.w3, w4 := lowBits lenBits d.w4 }

/-- `op.imm[7:0]`: `byte`, `level` (30_encoding.md R72). -/
def OperandLatch.immByte (op : OperandLatch) : Byte := op.imm.extractLsb' 0 8

/-- `op.imm[0]`: `flag`, 1 = true (R72). -/
def OperandLatch.immFlag (op : OperandLatch) : Bool := op.imm.getLsbD 0

/-- `op.imm[1:0]`: `rot` (R72). -/
def OperandLatch.immRot (op : OperandLatch) : BitVec 2 := op.imm.extractLsb' 0 2

/-- `op.imm[15:0]`: `c565` (R72). -/
def OperandLatch.imm565 (op : OperandLatch) : Half := op.imm.extractLsb' 0 16

/-- `op.imm[23:0]`: `c888` (R72). -/
def OperandLatch.imm888 (op : OperandLatch) : Imm := op.imm

/-- Why a decoder gives no instruction. -/
inductive DecodeError where
  /-- an operation code outside 30_encoding.md R74's table (R75) -/
  | illegalCode (code : Byte)
  /-- a command byte outside R80 to R91 (R94) -/
  | unknownWireCommand (command : Byte)
  /-- a wire command with a number of parameter bytes other than its own (R78) -/
  | wireParameterCount (command : Byte) (found : Nat)
  /-- no command byte at all -/
  | noWireCommand
deriving DecidableEq, Repr

/-- The operation the latch holds (30_encoding.md R74, R72); fields outside the format are not read (R76). -/
def decodeOperands (op : OperandLatch) : Except DecodeError Instr :=
  match op.code.toNat with
  | 0x40 => .ok (.writeCommand op.immByte)
  | 0x41 => .ok (.writeData op.immByte)
  | 0x42 => .ok (.writeDataBuffer op.ptr op.len)
  | 0x43 => .ok (.writeDataDMA op.ptr op.len)
  | 0x44 => .ok .isTransferBusy
  | 0x45 => .ok .waitTransferIdle
  | 0x46 => .ok .reset
  | 0x47 => .ok (.setBacklight op.immFlag)
  | 0x48 => .ok (.setBacklightBrightness op.immByte)
  | 0x50 => .ok (.initializeBlock op.ptr)
  | 0x51 => .ok (.setWindow op.x0 op.y0 op.x1 op.y1)
  | 0x52 => .ok (.setRotation op.immRot)
  | 0x53 => .ok (.setPartialMode op.immFlag)
  | 0x54 => .ok (.setPartialArea op.y0 op.y1)
  | 0x55 => .ok (.writeDMA op.ptr op.len)
  | 0x5F => .ok .teardown
  | 0x60 => .ok (.drawPixel op.x0 op.y0 op.imm565)
  | 0x61 => .ok (.drawPixelRGB24 op.x0 op.y0 op.imm888)
  | 0x62 => .ok (.fillArea op.x0 op.y0 op.x1 op.y1 op.imm565)
  | 0x63 => .ok (.fillAreaRGB24 op.x0 op.y0 op.x1 op.y1 op.imm888)
  | 0x64 => .ok (.fillScreen op.imm565)
  | 0x65 => .ok (.fillScreenRGB24 op.imm888)
  | 0x66 => .ok (.writePixels op.x0 op.y0 op.x1 op.y1 op.ptr op.len)
  | 0x67 => .ok (.writePixelsRGB24 op.x0 op.y0 op.x1 op.y1 op.ptr op.len)
  | 0x70 => .ok (.rgb565ToRgb666 op.imm565)
  | 0x71 => .ok (.rgb888ToRgb666 op.imm888)
  | _ => .error (.illegalCode op.code)

/-- The host operation a descriptor requests (30_encoding.md R70, R74). -/
def decodeDescriptor (d : Descriptor) : Except DecodeError Instr := decodeOperands d.operands

/-- The number of parameter bytes of a wire command, none for a byte outside R80 to R91; memory-write has no
parameters of its own (30_encoding.md R78). -/
def wireParameterCount (command : Byte) : Option Nat :=
  match command.toNat with
  | 0x01 => some 0
  | 0x11 => some 0
  | 0x12 => some 0
  | 0x13 => some 0
  | 0x21 => some 0
  | 0x29 => some 0
  | 0x2A => some 4
  | 0x2B => some 4
  | 0x2C => some 0
  | 0x30 => some 4
  | 0x36 => some 1
  | 0x3A => some 1
  | _ => none

/-- The wire command with this command byte and these parameter bytes (30_encoding.md R80 to R91). -/
def decodeWireCommand (command : Byte) (params : List Byte) : Except DecodeError Instr :=
  match command.toNat, params with
  | 0x01, [] => .ok .wireReset
  | 0x11, [] => .ok .wireSleepOut
  | 0x12, [] => .ok .wirePartialModeOn
  | 0x13, [] => .ok .wireNormalModeOn
  | 0x21, [] => .ok .wireDisplayInvertOn
  | 0x29, [] => .ok .wireDisplayOn
  | 0x2A, [p0, p1, p2, p3] => .ok (.wireColumnAddressSet (ofBigEndian p0 p1) (ofBigEndian p2 p3))
  | 0x2B, [p0, p1, p2, p3] => .ok (.wireRowAddressSet (ofBigEndian p0 p1) (ofBigEndian p2 p3))
  | 0x2C, [] => .ok .wireMemoryWrite
  | 0x30, [p0, p1, p2, p3] => .ok (.wirePartialArea (ofBigEndian p0 p1) (ofBigEndian p2 p3))
  | 0x36, [p0] => .ok (.wireMemoryAccessControl p0)
  | 0x3A, [p0] => .ok (.wirePixelFormat p0)
  | _, _ =>
    match wireParameterCount command with
    | some _ => .error (.wireParameterCount command params.length)
    | none => .error (.unknownWireCommand command)

/-- The wire command whose bytes, command byte first, these are (30_encoding.md R78). -/
def decodeWire : List Byte → Except DecodeError Instr
  | [] => .error .noWireCommand
  | command :: params => decodeWireCommand command params

/-- An instruction's words: a descriptor of a host operation, or the bytes of a wire command. -/
inductive Encoded where
  | descriptor (d : Descriptor)
  | wire (bytes : List Byte)
deriving DecidableEq, Repr

/-- The instruction these words stand for. -/
def decode : Encoded → Except DecodeError Instr
  | .descriptor d => decodeDescriptor d
  | .wire bytes => decodeWire bytes

/-- Bit `k` upward of `w` as a descriptor: `W0` is bits 31..0, `W1` bits 63..32, and so on. -/
def descriptorOfNat (w : Nat) : Descriptor where
  w0 := BitVec.ofNat 32 w
  w1 := BitVec.ofNat 32 (w >>> 32)
  w2 := BitVec.ofNat 32 (w >>> 64)
  w3 := BitVec.ofNat 32 (w >>> 96)
  w4 := BitVec.ofNat 32 (w >>> 128)

/-- The bytes of a wire command numbered from its command byte: as many parameter bytes as that command has,
none for a byte that is no command. -/
def wireBytesOfNat (w : Nat) : List Byte :=
  let command := BitVec.ofNat 8 w
  command :: (List.range ((wireParameterCount command).getD 0)).map (fun k => BitVec.ofNat 8 (w >>> (8 * (k + 1))))

/-- The words of the instruction whose table bits are `w`: a row of fewer than 32 bits is a wire command
(its table mask is 0xFF), any other a descriptor (its table mask is over `W0`). The words above `nbits` are 0. -/
def encodedOfTable (nbits w : Nat) : Encoded :=
  let w := w % 2 ^ nbits
  if nbits < 32 then .wire (wireBytesOfNat w) else .descriptor (descriptorOfNat w)

/-- The instruction the decoder reads from an instruction whose bits are `w`, numbered as
spec/opcode_table.json numbers them; `none` where it refuses. -/
def decodeTableWord (nbits w : Nat) : Option Instr :=
  match decode (encodedOfTable nbits w) with
  | .ok i => some i
  | .error _ => none

/-- `W0` from an operation code and an immediate (30_encoding.md R70). -/
def word0 (code : Byte) (imm : Imm) : Word := code ++ imm

/-- `W1` or `W2` from a column and a row field (30_encoding.md R70). -/
def wordXY (x y : Half) : Word := x ++ y

/-- A descriptor from its fields; a field a format does not use is passed as 0 (30_encoding.md R76). -/
def describe (code : Byte) (imm : Imm) (x0 y0 x1 y1 : Half) (ptr len : Word) : Encoded :=
  .descriptor ⟨word0 code imm, wordXY x0 y0, wordXY x1 y1, ptr, len⟩

/-- The words of an instruction, unused fields zero (30_encoding.md R71, R74, R76, R80 to R91). -/
def encode : Instr → Encoded
  | .writeCommand byte => describe 0x40 (byte.setWidth 24) 0 0 0 0 0 0
  | .writeData byte => describe 0x41 (byte.setWidth 24) 0 0 0 0 0 0
  | .writeDataBuffer ptr len => describe 0x42 0 0 0 0 0 ptr len
  | .writeDataDMA ptr len => describe 0x43 0 0 0 0 0 ptr len
  | .isTransferBusy => describe 0x44 0 0 0 0 0 0 0
  | .waitTransferIdle => describe 0x45 0 0 0 0 0 0 0
  | .reset => describe 0x46 0 0 0 0 0 0 0
  | .setBacklight flag => describe 0x47 ((BitVec.ofBool flag).setWidth 24) 0 0 0 0 0 0
  | .setBacklightBrightness level => describe 0x48 (level.setWidth 24) 0 0 0 0 0 0
  | .initializeBlock ptr => describe 0x50 0 0 0 0 0 ptr 0
  | .setWindow x0 y0 x1 y1 => describe 0x51 0 x0 y0 x1 y1 0 0
  | .setRotation rot => describe 0x52 (rot.setWidth 24) 0 0 0 0 0 0
  | .setPartialMode flag => describe 0x53 ((BitVec.ofBool flag).setWidth 24) 0 0 0 0 0 0
  | .setPartialArea y0 y1 => describe 0x54 0 0 y0 0 y1 0 0
  | .writeDMA ptr len => describe 0x55 0 0 0 0 0 ptr len
  | .teardown => describe 0x5F 0 0 0 0 0 0 0
  | .drawPixel x y c565 => describe 0x60 (c565.setWidth 24) x y 0 0 0 0
  | .drawPixelRGB24 x y c888 => describe 0x61 c888 x y 0 0 0 0
  | .fillArea x0 y0 x1 y1 c565 => describe 0x62 (c565.setWidth 24) x0 y0 x1 y1 0 0
  | .fillAreaRGB24 x0 y0 x1 y1 c888 => describe 0x63 c888 x0 y0 x1 y1 0 0
  | .fillScreen c565 => describe 0x64 (c565.setWidth 24) 0 0 0 0 0 0
  | .fillScreenRGB24 c888 => describe 0x65 c888 0 0 0 0 0 0
  | .writePixels x0 y0 x1 y1 ptr len => describe 0x66 0 x0 y0 x1 y1 ptr len
  | .writePixelsRGB24 x0 y0 x1 y1 ptr len => describe 0x67 0 x0 y0 x1 y1 ptr len
  | .rgb565ToRgb666 c565 => describe 0x70 (c565.setWidth 24) 0 0 0 0 0 0
  | .rgb888ToRgb666 c888 => describe 0x71 c888 0 0 0 0 0 0
  | .wireReset => .wire [0x01]
  | .wireSleepOut => .wire [0x11]
  | .wirePartialModeOn => .wire [0x12]
  | .wireNormalModeOn => .wire [0x13]
  | .wireDisplayInvertOn => .wire [0x21]
  | .wireDisplayOn => .wire [0x29]
  | .wireColumnAddressSet a0 a1 => .wire (0x2A :: (bigEndian a0 ++ bigEndian a1))
  | .wireRowAddressSet b0 b1 => .wire (0x2B :: (bigEndian b0 ++ bigEndian b1))
  | .wireMemoryWrite => .wire [0x2C]
  | .wirePartialArea p0 p1 => .wire (0x30 :: (bigEndian p0 ++ bigEndian p1))
  | .wireMemoryAccessControl bits => .wire [0x36, bits]
  | .wirePixelFormat fmt => .wire [0x3A, fmt]

end Sys2Proof
end

