-- ==== Sys2Proof/Machine/State.lean ====
section
/-! DEFINITION. The state of one instance of the block (10_state.md), its events (00_scope.md R8), its stimuli,
the ways a run stops (60_exceptions.md R215), and the state after reset (10_state.md R36, 70_reset_and_hazards.md R240). -/

namespace Sys2Proof.Machine

/-- `S.phase` (10_state.md R22). -/
inductive Phase where
  | uninitialized
  | initializing
  | ready
deriving DecidableEq, Repr

/-- `S.xfer` (10_state.md R26). -/
inductive Xfer where
  | idle
  | armed
  | inFlight
deriving DecidableEq, Repr

/-- The level of chip-select: `A` or `R` (10_state.md R29). -/
inductive ChipSelect where
  | asserted
  | released
deriving DecidableEq, Repr

/-- The level of the data/command line: `C` or `D` (10_state.md R29); also the tag of a byte (00_scope.md R9). -/
inductive Tag where
  | command
  | data
deriving DecidableEq, Repr

/-- The level of the reset line: `L` or `H` (10_state.md R29). -/
inductive Level where
  | low
  | high
deriving DecidableEq, Repr

/-- `seq.state` (10_state.md R31, 44_drawing.md R180). -/
inductive SeqState where
  | seqIdle
  | seqWindow
  | seqPrime
  | seqStream
deriving DecidableEq, Repr

/-- What the main line is at between two steps. -/
inductive MainLine where
  /-- it can take a request (30_encoding.md R70) -/
  | free
  /-- it is held by `waitTransferIdle` (41_dma.md R122) -/
  | waiting
  /-- it stands at the emission of this one wire command, inside an operation (30_encoding.md R79: what the block
  emits). The model's own, for running a WIRE row of the opcode table by itself: no step and no stimulus leaves the
  main line here, `State.withFetchWord` alone does (log 8) -/
  | emitting (i : Instr)
deriving DecidableEq, Repr

/-- The wire events (00_scope.md R8). -/
inductive Event where
  /-- `CS(A)`, `CS(R)` -/
  | cs (level : ChipSelect)
  /-- `DC(C)`, `DC(D)` -/
  | dc (level : Tag)
  /-- `TX(b)` -/
  | tx (b : Byte)
  /-- `RST(L)`, `RST(H)` -/
  | rst (level : Level)
  /-- `DELAY(n)`: at least `n` milliseconds -/
  | delay (ms : Nat)
  /-- `BL(v)` -/
  | bl (level : Byte)
deriving DecidableEq, Repr

/-- What the environment does next (41_dma.md section 1, 60_exceptions.md R221; logs 6, 7). -/
inductive Input where
  /-- the host's next request on the port (30_encoding.md R70) -/
  | request (d : Descriptor)
  /-- the host writes a byte of its buffer memory (20_memory.md R59) -/
  | hostWrite (addr : Word) (b : Byte)
  /-- the DMA agent or the completion handler moves before the stimuli behind this one (60_exceptions.md R221) -/
  | transferTurn
deriving DecidableEq, Repr

/-- Host buffer memory (20_memory.md R50): the bytes that differ from `unlistedByte`, addresses rising. -/
abbrev Memory := List Host.Cell

/-- The state of one instance: the triple `(cfg, S, trace)` of 10_state.md R20 with the host's side of it. -/
structure State where
  /-- `cfg` (R21); nothing writes it -/
  cfg : Params
  /-- `S.phase` (R22) -/
  phase : Phase
  /-- `S.width` (R23) -/
  width : Half
  /-- `S.height` (R23) -/
  height : Half
  /-- `S.rotation` (R24) -/
  rotation : BitVec 2
  /-- `S.partial_on` (R25) -/
  partialOn : Bool
  /-- `S.part_y0` (R25) -/
  partY0 : Half
  /-- `S.part_y1` (R25) -/
  partY1 : Half
  /-- `S.xfer` (R26) -/
  xfer : Xfer
  /-- `S.dma_claimed` (R27) -/
  dmaClaimed : Bool
  /-- `S.dma_ptr` (R27) -/
  dmaPtr : Word
  /-- `S.dma_len` (R27) -/
  dmaLen : Word
  /-- `S.dma_pos` (R27) -/
  dmaPos : Word
  /-- `S.irq_pending` (R28) -/
  irqPending : Bool
  /-- `S.cs` (R29) -/
  cs : ChipSelect
  /-- `S.dc` (R29) -/
  dc : Tag
  /-- `S.rst` (R29) -/
  rst : Level
  /-- `S.bl` (R30) -/
  bl : Byte
  /-- `S.batch` (R31) -/
  batch : List Byte
  /-- `seq.state` (R31) -/
  seqState : SeqState
  /-- `seq.remaining` (R31) -/
  seqRemaining : Word
  /-- `seq.index` (R31) -/
  seqIndex : Word
  /-- the operand latch `op.*` (R32) -/
  latch : OperandLatch
  /-- what the main line is at: free, held by `waitTransferIdle` (41_dma.md R122), or at a wire command (log 8) -/
  mainLine : MainLine
  /-- `trace` (R38) -/
  trace : List Event
  /-- the response words delivered, oldest first (30_encoding.md R73, 70_reset_and_hazards.md R256) -/
  responses : List Word
  /-- host buffer memory (20_memory.md R50) -/
  mem : Memory
  /-- the model's own: the stimuli not yet taken (logs 6, 7) -/
  inputs : List Input
  /-- the model's own: how many free values have been drawn (log 5) -/
  freeIndex : Nat
deriving DecidableEq, Repr

/-- Why a run stops. The first four are the outcomes `Undefined(k)` of 60_exceptions.md R215, where "a model
must stop the run with the named outcome": safe, the hardware goes on in a way no source describes. -/
inductive Fault where
  /-- `Undefined(NotReady)`: a host operation other than `initialize` and the conversions while `S.phase` is not
  `Ready` (42_addressing.md R140). Raised by those operations. Safe. -/
  | notReady
  /-- `Undefined(BusConflict)`: a frame, `reset` or `teardown` started while `S.xfer` is not `Idle`
  (40_transport.md R100, R106, 42_addressing.md R151). Raised by every operation that drives the bus. Safe. -/
  | busConflict
  /-- `Undefined(BufferRace)`: a byte of the buffer of a transfer in flight changed (20_memory.md R59). Raised by
  the host's write. Safe. -/
  | bufferRace
  /-- `Undefined(BadRange)`: a colour array whose used part passes the end of host memory, `2^32` at the
  default width (44_drawing.md R189; log 10). Raised by `writePixels` and
  `writePixelsRGB24`. Safe. -/
  | badRange
  /-- An address past `2^PTR_BITS`, where no host memory exists (20_memory.md R50, R55). Raised by `DmaBeat`, in
  states no run reaches, and by a host write to such an address. Safe (logs 10, 14). -/
  | noSuchAddress
deriving DecidableEq, Repr

/-- Why the model gives a stimulus no meaning. -/
inductive Refusal where
  /-- An instruction whose meaning is not written. No arm answers it. Safe. -/
  | notModelled (mnemonic : String)
deriving DecidableEq, Repr

/-- The state after reset of an instance with configuration `cfg` (10_state.md R36). `cs`, `dc`, `rst`, `bl`,
the DMA registers, the batch buffer, the sequencer's counters and the latch are unspecified there: their values
here are DESIGN CHOICES (logs 1 to 4), as are the two fields of the model's own (logs 5, 7) and the memory's
contents (log 11). -/
def State.resetWith (cfg : Params) : State where
  cfg := cfg
  phase := .uninitialized
  width := cfg.panelW
  height := cfg.panelH
  rotation := 0
  partialOn := false
  partY0 := 0
  partY1 := cfg.panelH - 1
  xfer := .idle
  dmaClaimed := false
  dmaPtr := 0
  dmaLen := 0
  dmaPos := 0
  irqPending := false
  cs := .released
  dc := .command
  rst := .high
  bl := 0
  batch := List.replicate (3 * cfg.batchPixels.toNat) 0
  seqState := .seqIdle
  seqRemaining := 0
  seqIndex := 0
  latch := ⟨0, 0, 0, 0, 0, 0, 0, 0⟩
  mainLine := .free
  trace := []
  responses := []
  mem := []
  inputs := []
  freeIndex := 0

/-- The state after reset (10_state.md R36, 70_reset_and_hazards.md R240) of the instance `Config.params`. -/
def State.reset : State := State.resetWith Config.params

end Sys2Proof.Machine
end

