-- ==== Sys2Proof/Machine/Memory.lean ====
section
/-! DEFINITION. Host buffer memory: its canonical form, reading a byte, several bytes (20_memory.md R51), an
element of a colour array (R52), the host's write, and which ranges are valid (R55). -/

namespace Sys2Proof.Machine

/-- The number of byte addresses of host buffer memory, `2^PTR_BITS` (20_memory.md R50: "addresses are u32
(`PTR_BITS`)"): the `2^32` of R55 at the default width (log 10). -/
def addressSpace (cfg : Params) : Nat := 2 ^ cfg.ptrBits

/-- The number of byte addresses at the widest pointer a descriptor can carry (30_encoding.md R70). -/
def widestSpace : Nat := 2 ^ 32

/-- What a byte reads as that nothing has written: the spec gives no contents (DESIGN CHOICE, log 11). -/
def unlistedByte : Byte := 0

/-- The canonical form: addresses strictly rising from `low` up, each an address a word can name, no entry equal
to what an unlisted address reads as. -/
def Memory.wfFrom (low : Nat) : Memory → Bool
  | [] => true
  | (addr, b) :: rest =>
    decide (low ≤ addr) && decide (addr < widestSpace) && b != unlistedByte && Memory.wfFrom (addr + 1) rest

/-- The canonical form of a memory. -/
def Memory.wf (m : Memory) : Bool := Memory.wfFrom 0 m

/-- The byte at an address (20_memory.md R50). -/
def readByte : Memory → Nat → Byte
  | [], _ => unlistedByte
  | (addr, b) :: rest, a => if a = addr then b else readByte rest a

/-- An entry for `b`, or none where `b` is what an unlisted address reads as. -/
def memoryCell (a : Nat) (b : Byte) (rest : Memory) : Memory :=
  if b = unlistedByte then rest else (a, b) :: rest

/-- The memory after byte `b` is written at `a`, in canonical form. -/
def writeByte : Memory → Nat → Byte → Memory
  | [], a, b => memoryCell a b []
  | (addr, old) :: rest, a, b =>
    if a < addr then memoryCell a b ((addr, old) :: rest)
    else if a = addr then memoryCell a b rest
    else (addr, old) :: writeByte rest a b

/-- `MemRead(addr, n)`: `n` bytes as one number, lowest address least significant (20_memory.md R51). -/
def memRead (m : Memory) (a : Nat) : Nat → Nat
  | 0 => 0
  | n + 1 => (readByte m a).toNat + 2 ^ 8 * memRead m (a + 1) n

/-- The bytes at `a`, `a + 1`, … `a + n - 1`, in address order. -/
def readRange (m : Memory) (a n : Nat) : List Byte :=
  (List.range n).map fun k => readByte m (a + k)

/-- `ColorRead16(base, i)` (20_memory.md R52). -/
def colorRead16 (m : Memory) (base i : Nat) : Half := BitVec.ofNat 16 (memRead m (base + 2 * i) 2)

/-- `ColorRead24(base, i)`: bits 23:0 of a four-byte element (20_memory.md R52). -/
def colorRead24 (m : Memory) (base i : Nat) : Imm := BitVec.ofNat 24 (memRead m (base + 4 * i) 4)

/-- A range `[ptr, ptr + n)` is valid iff `ptr != 0`, `n != 0` and it ends inside host memory (20_memory.md R55:
`ptr + n <= 2^32`, the default width; log 10). -/
def validRange (cfg : Params) (ptr n : Word) : Bool :=
  ptr != 0 && n != 0 && decide (ptr.toNat + n.toNat ≤ addressSpace cfg)

end Sys2Proof.Machine
end

