-- ==== Sys2Proof/Machine/Color.lean ====
section
/-! DEFINITION. Colour conversion (43_color.md): the two conversions, the widening of its test, the wire bytes of
a pixel, and the two array formats of 44_drawing.md R189, R190. -/

namespace Sys2Proof.Machine

/-- An RGB666 colour: three 6-bit channels (43_color.md R170). -/
structure Rgb666 where
  r : BitVec 6
  g : BitVec 6
  b : BitVec 6
deriving DecidableEq, Repr

/-- A 5-bit channel widened to 6 bits by bit replication, `(v << 1) | (v >> 4)` (43_color.md R171). -/
def widen5 (v : BitVec 5) : BitVec 6 := (v.setWidth 6 <<< 1) ||| (v.setWidth 6 >>> 4)

/-- `rgb565_to_rgb666` (43_color.md R171). -/
def rgb565ToRgb666 (v : Half) : Rgb666 where
  r := widen5 (v.extractLsb' 11 5)
  g := v.extractLsb' 5 6
  b := widen5 (v.extractLsb' 0 5)

/-- An 8-bit channel cut to its six high bits, `v >> 2` (43_color.md R172). -/
def narrow8 (v : Byte) : BitVec 6 := (v >>> 2).setWidth 6

/-- `rgb888_to_rgb666` (43_color.md R172). -/
def rgb888ToRgb666 (c : Imm) : Rgb666 where
  r := narrow8 (c.extractLsb' 16 8)
  g := narrow8 (c.extractLsb' 8 8)
  b := narrow8 (c.extractLsb' 0 8)

/-- A 6-bit channel widened to 8 bits, `((x << 2) | (x >> 4))[7:0]` (43_color.md R174). -/
def widen6 (x : BitVec 6) : Byte := (x.setWidth 8 <<< 2) ||| (x.setWidth 8 >>> 4)

/-- `rgb666_to_rgb888`, the helper of the document's test; it has no operation code (43_color.md R174). -/
def rgb666ToRgb888 (p : Rgb666) : Byte × Byte × Byte := (widen6 p.r, widen6 p.g, widen6 p.b)

/-- A colour as one 18-bit value, red most significant (43_color.md R170). -/
def Rgb666.value (p : Rgb666) : BitVec 18 := p.r ++ p.g ++ p.b

/-- `PixelBytes`: three bytes, red first, each channel in bits 5:0 of its byte (43_color.md R175). -/
def pixelBytes (p : Rgb666) : List Byte := [p.r.setWidth 8, p.g.setWidth 8, p.b.setWidth 8]

/-- `Pix565` (43_color.md R175). -/
def pix565 (v : Half) : List Byte := pixelBytes (rgb565ToRgb666 v)

/-- `Pix888` (43_color.md R175). -/
def pix888 (c : Imm) : List Byte := pixelBytes (rgb888ToRgb666 c)

/-- The two formats of a colour array. -/
inductive ArrayFormat where
  /-- RGB565, two bytes an element -/
  | rgb565
  /-- RGB888, four bytes an element, the top byte ignored -/
  | rgb888
deriving DecidableEq, Repr

/-- The bytes an element occupies (20_memory.md R52). -/
def ArrayFormat.elementBytes : ArrayFormat → Nat
  | .rgb565 => 2
  | .rgb888 => 4

/-- `conv(read(base, i))`: the wire bytes of element `i` of a colour array (44_drawing.md R182). -/
def ArrayFormat.pixel (f : ArrayFormat) (m : Memory) (base i : Nat) : List Byte :=
  match f with
  | .rgb565 => pix565 (colorRead16 m base i)
  | .rgb888 => pix888 (colorRead24 m base i)

end Sys2Proof.Machine
end

