-- ==== Sys2Proof/Machine/Flags.lean ====
section
/-! DEFINITION. The derived bits: the busy flag (10_state.md R26), which agent has a step enabled (41_dma.md R123,
R124, 60_exceptions.md R218), and the response word (30_encoding.md R73). The block has no condition flags. -/

namespace Sys2Proof.Machine

/-- The busy flag: `S.xfer != Idle` (10_state.md R26). -/
def State.busy (s : State) : Bool := s.xfer != .idle

/-- `DmaBeat` is enabled (41_dma.md R123). -/
def State.dmaBeatEnabled (s : State) : Bool := s.xfer == .inFlight && decide (s.dmaPos < s.dmaLen)

/-- `DmaDone` is enabled (41_dma.md R124). -/
def State.dmaDoneEnabled (s : State) : Bool :=
  s.xfer == .inFlight && s.dmaPos == s.dmaLen && !s.irqPending

/-- `IrqHandler` is enabled (60_exceptions.md R218). -/
def State.irqHandlerEnabled (s : State) : Bool := s.irqPending

/-- The response of an operation without a result (30_encoding.md R73). -/
def noResult : Word := 0

/-- A boolean result: `resp[0]` (30_encoding.md R73). -/
def boolResult (b : Bool) : Word := (BitVec.ofBool b).setWidth 32

/-- A colour result: `resp[17:0]`, red most significant, all other bits 0 (30_encoding.md R73). -/
def colorResult (value : BitVec 18) : Word := value.setWidth 32

/-- The response to an illegal code: `resp[31]` alone (30_encoding.md R73, R75). -/
def illegalResult : Word := 0x80000000

end Sys2Proof.Machine
end

