-- ==== Sys2Proof/Machine/Operands.lean ====
section
/-! DEFINITION. Operand forms: rectangles and their check against the bounds (42_addressing.md R144), the pixel
count (44_drawing.md R191), and the (pointer, length) pairs of byte buffers and colour arrays. The fields of the
descriptor are read in Decode.lean. -/

namespace Sys2Proof.Machine

/-- `min` on unsigned numbers (00_scope.md R6). -/
def umin {n : Nat} (a b : BitVec n) : BitVec n := if a ≤ b then a else b

/-- `max` on unsigned numbers (00_scope.md R6). -/
def umax {n : Nat} (a b : BitVec n) : BitVec n := if a ≤ b then b else a

/-- A rectangle in logical coordinates, columns `a0` to `a1`, rows `b0` to `b1` (42_addressing.md R144). -/
structure Rect where
  a0 : Half
  b0 : Half
  a1 : Half
  b1 : Half
deriving DecidableEq, Repr

/-- The two corners put in order, each axis on its own (42_addressing.md R144). -/
def Rect.ofCorners (x0 y0 x1 y1 : Half) : Rect where
  a0 := umin x0 x1
  b0 := umin y0 y1
  a1 := umax x0 x1
  b1 := umax y0 y1

/-- `a1 - a0 + 1`, the number of columns (44_drawing.md R191). -/
def Rect.columns (w : Rect) : Nat := w.a1.toNat - w.a0.toNat + 1

/-- `b1 - b0 + 1`, the number of rows (44_drawing.md R191). -/
def Rect.rows (w : Rect) : Nat := w.b1.toNat - w.b0.toNat + 1

/-- The pixel count of a rectangle (44_drawing.md R191). -/
def Rect.pixels (w : Rect) : Nat := w.columns * w.rows

/-- `WindowCheck` (42_addressing.md R144): the normalised rectangle, or none where a coordinate is outside the
current bounds, or a row outside the band while partial mode is on. -/
def windowCheck (s : State) (x0 y0 x1 y1 : Half) : Option Rect :=
  let w := Rect.ofCorners x0 y0 x1 y1
  if w.a1 ≥ s.width ∨ w.b1 ≥ s.height then none
  else if s.partialOn ∧ (w.b0 < s.partY0 ∨ w.b1 > s.partY1) then none
  else some w

end Sys2Proof.Machine
end

