-- ==== Sys2Proof/Machine/Ops.lean ====
section
/-! DEFINITION. The operations the instructions share: driving the lines (00_scope.md R8), framing (40_transport.md
R100, R101), the reset pulse (R106), arming a transfer (41_dma.md R120), the bring-up sequence (42_addressing.md
R141), the window (R145), the batch sequencer (44_drawing.md R180 to R182), the completion interrupt
(60_exceptions.md R218), and how an operation ends (00_scope.md R10). -/

namespace Sys2Proof.Machine

/-- The pin state an event writes (10_state.md R29, R30); the other events write none. -/
def setPin (s : State) (e : Event) : State :=
  match e with
  | .cs level => { s with cs := level }
  | .dc level => { s with dc := level }
  | .rst level => { s with rst := level }
  | .bl level => { s with bl := level }
  | .tx _ => s
  | .delay _ => s

/-- `Emit` of several events, first to last, each with the write of the pin state that goes with it
(00_scope.md R7, R8). -/
def driveAll (es : List Event) (s : State) : State :=
  { es.foldl setPin s with trace := s.trace ++ es }

/-- `Emit(e)` with the write of the pin state that goes with it (00_scope.md R7, R8). -/
def drive (e : Event) (s : State) : State := driveAll [e] s

/-- The events of a frame: chip-select, the data/command line, the bytes, chip-select (40_transport.md R100). -/
def frameEvents (t : Tag) (bytes : List Byte) : List Event :=
  [.cs .asserted, .dc t] ++ bytes.map .tx ++ [.cs .released]

/-- `Frame(t, bytes)` (40_transport.md R100). -/
def frame (t : Tag) (bytes : List Byte) (s : State) : Except Fault State :=
  if s.xfer = .idle then .ok (driveAll (frameEvents t bytes) s) else .error .busConflict

/-- `SendCmd(c, params)` (40_transport.md R101). -/
def sendCmd (c : Byte) (params : List Byte) (s : State) : Except Fault State := do
  let s ← frame .command [c] s
  if params = [] then .ok s else frame .data params s

/-- The pieces of at most `chunk` bytes in which a long buffer is handed to the SPI peripheral
(40_transport.md R105); `fuel` bounds their number. -/
def piecesFrom (chunk : Nat) : Nat → List Byte → List (List Byte)
  | 0, _ => []
  | _ + 1, [] => []
  | fuel + 1, b :: bytes =>
    (b :: bytes).take chunk :: piecesFrom chunk fuel ((b :: bytes).drop chunk)

/-- The pieces of a buffer (40_transport.md R105); a chunk size of 0, which R5 does not admit, cuts nothing. -/
def pieces (chunk : Nat) (bytes : List Byte) : List (List Byte) :=
  if chunk = 0 then [bytes] else piecesFrom chunk bytes.length bytes

/-- The frame of a byte buffer, its pieces under one chip-select assertion (40_transport.md R104, R105). -/
def bufferFrame (bytes : List Byte) (s : State) : Except Fault State :=
  frame .data (pieces s.cfg.chunkBytes.toNat bytes).flatten s

/-- The events of the reset pulse (40_transport.md R106). -/
def resetPulseEvents (cfg : Params) : List Event :=
  [.rst .high, .delay cfg.tRstSettle, .rst .low, .delay cfg.tRstPulse, .rst .high, .delay cfg.tRstRecover]

/-- The reset pulse, which `reset` and step 2 of `initialize` drive (40_transport.md R106). -/
def resetPulse (s : State) : Except Fault State :=
  if s.xfer = .idle then .ok (driveAll (resetPulseEvents s.cfg) s) else .error .busConflict

/-- The assertion of `writeDataDMA` once its tests have passed: the pair is latched, the lines are driven, the
transfer is in flight (41_dma.md R120). -/
def armTransfer (ptr len : Word) (s : State) : State :=
  let s := { s with dmaClaimed := true, dmaPtr := ptr, dmaLen := len, dmaPos := 0, xfer := .armed }
  let s := drive (.dc .data) (drive (.cs .asserted) s)
  { s with xfer := .inFlight }

/-- Whether `writeDataDMA` starts a transfer: its four tests (41_dma.md R120). -/
def dmaStarts (ptr len : Word) (s : State) : Bool :=
  !s.busy && validRange s.cfg ptr len && s.cfg.dmaCapable && (s.dmaClaimed || s.cfg.dmaClaimOk)

/-- The state after `writeDataDMA`, and its boolean (41_dma.md R120). -/
def startDma (ptr len : Word) (s : State) : State × Bool :=
  if dmaStarts ptr len s then (armTransfer ptr len s, true) else (s, false)

/-- `Pause(k + 3)`: the delay after bring-up step `k + 3`, where it is not 0 (42_addressing.md R141). -/
def pause (k : Fin 7) (s : State) : State :=
  if s.cfg.initDelay[k] > 0 then drive (.delay s.cfg.initDelay[k]) s else s

/-- Step 1 of `initialize`: the pins are claimed and the engine state takes its reset values (42_addressing.md R141). -/
def claimPins (s : State) : State :=
  let s := { s with
    phase := .initializing
    rotation := 0
    width := s.cfg.panelW
    height := s.cfg.panelH
    partialOn := false
    partY0 := 0
    partY1 := s.cfg.panelH - 1
    xfer := .idle
    dmaClaimed := false
    irqPending := false }
  drive (.bl 0) (drive (.cs .released) s)

/-- The calibration commands, in list order (30_encoding.md R92). -/
def calibrate : List (Byte × List Byte) → State → Except Fault State
  | [], s => .ok s
  | (c, params) :: rest, s => do
    let s ← sendCmd c params s
    calibrate rest s

/-- The bring-up sequence of a successful `initialize` (42_addressing.md R141). -/
def bringUp (s : State) : Except Fault State := do
  let s := claimPins s
  let s ← resetPulse s
  let s ← sendCmd 0x01 [] s
  let s ← sendCmd 0x11 [] (pause 0 s)
  let s ← sendCmd 0x36 [s.cfg.rotTable[0]] (pause 1 s)
  let s ← sendCmd 0x3A [0x66] (pause 2 s)
  let s ← calibrate s.cfg.calibTable (pause 3 s)
  let s ← sendCmd 0x21 [] (pause 4 s)
  let s ← sendCmd 0x29 [] (pause 5 s)
  let s := pause 6 s
  .ok { s with phase := .ready }

/-- `EmitWindow` (42_addressing.md R145): columns to 0x2A, rows to 0x2B, then memory-write. -/
def emitWindow (w : Rect) (s : State) : Except Fault State := do
  let s ← sendCmd 0x2A (bigEndian w.a0 ++ bigEndian w.a1) s
  let s ← sendCmd 0x2B (bigEndian w.b0 ++ bigEndian w.b1) s
  sendCmd 0x2C [] s

/-- A state of the batch sequencer is entered (44_drawing.md R180). -/
def enterSeq (q : SeqState) (s : State) : State := { s with seqState := q }

/-- `seq.remaining` takes the number of pixels still to send (44_drawing.md R181, R182). -/
def setRemaining (remaining : Nat) (s : State) : State := { s with seqRemaining := BitVec.ofNat 32 remaining }

/-- `seq.index` takes the number of the next pixel (44_drawing.md R182). -/
def setIndex (index : Nat) (s : State) : State := { s with seqIndex := BitVec.ofNat 32 index }

/-- The batch buffer with these bytes at its start, `SeqPrime` (44_drawing.md R180 to R182). -/
def primeBatch (bytes : List Byte) (s : State) : State :=
  { s with seqState := .seqPrime, batch := bytes ++ s.batch.drop bytes.length }

/-- One frame of the first `k` pixels of the batch buffer, `SeqStream` (44_drawing.md R180 to R182). -/
def streamBatch (k : Nat) (s : State) : Except Fault State :=
  frame .data (s.batch.take (3 * k)) (enterSeq .seqStream s)

/-- The loop of `StreamFill` with `remaining` pixels to send (44_drawing.md R181); `fuel` bounds its passes. -/
def fillLoop : Nat → Nat → State → Except Fault State
  | 0, _, s => .ok s
  | fuel + 1, remaining, s =>
    if remaining = 0 then .ok s
    else do
      let k := min remaining s.cfg.batchPixels.toNat
      let s ← streamBatch k s
      fillLoop fuel (remaining - k) (setRemaining (remaining - k) s)

/-- `StreamFill(n, p)` (44_drawing.md R181). -/
def streamFill (n : Nat) (p : List Byte) (s : State) : Except Fault State :=
  fillLoop n n (setRemaining n (primeBatch (List.replicate (min n s.cfg.batchPixels.toNat) p).flatten s))

/-- The loop of `StreamPixels` from pixel `i` on (44_drawing.md R182); `pixel q` is the wire bytes of pixel
number `q`, and `fuel` bounds the passes. -/
def pixelLoop (n : Nat) (pixel : Nat → List Byte) : Nat → Nat → State → Except Fault State
  | 0, _, s => .ok s
  | fuel + 1, i, s =>
    if n ≤ i then .ok s
    else do
      let k := min (n - i) s.cfg.batchPixels.toNat
      let s ← streamBatch k (primeBatch ((List.range k).flatMap fun j => pixel (i + j)) s)
      pixelLoop n pixel fuel (i + k) (setIndex (i + k) (setRemaining (n - (i + k)) s))

/-- `StreamPixels(n, read, conv, base, len)` (44_drawing.md R182): pixel `q` takes element `q mod len`. -/
def streamPixels (n : Nat) (f : ArrayFormat) (base len : Word) (s : State) : Except Fault State :=
  pixelLoop n (fun q => f.pixel s.mem base.toNat (q % len.toNat)) n 0 (setIndex 0 (setRemaining n s))

/-- `SeqIdle` between operations (44_drawing.md R180). -/
def endSequence (s : State) : State := enterSeq .seqIdle s

/-- A window that passed its check, then its pixels (44_drawing.md R180: `SeqWindow`, …, `SeqIdle`). -/
def drawWindow (w : Rect) (stream : State → Except Fault State) (s : State) : Except Fault State := do
  let s ← emitWindow w (enterSeq .seqWindow s)
  let s ← stream s
  .ok (endSequence s)

/-- A solid fill with the wire bytes `p` (44_drawing.md R183 to R188): nothing where the window is rejected. -/
def fillRect (x0 y0 x1 y1 : Half) (p : List Byte) (s : State) : Except Fault State :=
  match windowCheck s x0 y0 x1 y1 with
  | none => .ok s
  | some w => drawWindow w (streamFill w.pixels p) s

/-- A bulk write from a colour array (44_drawing.md R189, R190). -/
def writeRect (f : ArrayFormat) (x0 y0 x1 y1 : Half) (ptr len : Word) (s : State) : Except Fault State :=
  if ptr = 0 ∨ len = 0 then .ok s
  else
    match windowCheck s x0 y0 x1 y1 with
    | none => .ok s
    | some w =>
      if ptr.toNat + f.elementBytes * min len.toNat w.pixels > addressSpace s.cfg then .error .badRange
      else drawWindow w (streamPixels w.pixels f ptr len) s

/-- The values every field of `S` takes at `teardown` (42_addressing.md R151, 10_state.md R36): the reset values
the spec states, and a fresh free value for each field it leaves unspecified (log 5). -/
def releaseBlock (s : State) : State :=
  let free (k : Nat) : Word := Config.freeWord (s.freeIndex + k)
  { s with
    phase := .uninitialized
    xfer := .idle
    rotation := 0
    width := s.cfg.panelW
    height := s.cfg.panelH
    partialOn := false
    partY0 := 0
    partY1 := s.cfg.panelH - 1
    dmaClaimed := false
    irqPending := false
    seqState := .seqIdle
    cs := if (free 0).getLsbD 0 then .asserted else .released
    dc := if (free 1).getLsbD 0 then .data else .command
    rst := if (free 2).getLsbD 0 then .high else .low
    bl := (free 3).setWidth 8
    dmaPtr := free 4
    dmaLen := free 5
    dmaPos := free 6
    seqRemaining := free 7
    seqIndex := free 8
    latch := Descriptor.operands ⟨free 9, free 10, free 11, free 12, free 13⟩
    batch := (List.range (3 * s.cfg.batchPixels.toNat)).map fun j => (free (14 + j)).setWidth 8
    freeIndex := s.freeIndex + 14 + 3 * s.cfg.batchPixels.toNat }

/-- TAKING THE EXCEPTION: `IrqHandler`, one atomic step (60_exceptions.md R218). It saves no state, changes no mode
and has no vector. -/
def takeCompletionInterrupt (s : State) : State :=
  { drive (.cs .released) s with xfer := .idle, irqPending := false }

/-- THE RETURN from it: the handler's step ends and the main line goes on where it was; nothing is restored, since
nothing was saved (60_exceptions.md R218, R220). -/
def returnFromInterrupt (s : State) : State := s

/-- `Return(v)`: the response word is delivered (00_scope.md R7, 30_encoding.md R73). -/
def respond (v : Word) (s : State) : State := { s with responses := s.responses ++ [v] }

/-- How a main-line operation ends: a return with response `v`, or `Undefined(k)` (00_scope.md R10). -/
def conclude (v : Word) : Except Fault State → Host.Outcome State Fault Refusal
  | .ok s => .next (respond v s)
  | .error k => .fault k

/-- The phase guard (42_addressing.md R140). -/
def whenReady (s : State) (body : Host.Outcome State Fault Refusal) : Host.Outcome State Fault Refusal :=
  if s.phase = .ready then body else .fault .notReady

/-- A wire command on the wire: `SendCmd`, no response (30_encoding.md R78, 40_transport.md R101; log 8). -/
def runWire (c : Byte) (params : List Byte) (s : State) : Host.Outcome State Fault Refusal :=
  match sendCmd c params s with
  | .ok s => .next s
  | .error k => .fault k

end Sys2Proof.Machine
end

