-- ==== Sys2Proof/Machine/Dma.lean ====
section
/-! DEFINITION. The DMA transfer path: its three main-line operations (41_dma.md R120 to R122), the steps of the
DMA agent (R123, R124) and the turn of the agents beside the main line (60_exceptions.md R221). -/

namespace Sys2Proof.Machine

/-- `writeDataDMA(ptr, len) -> bool` (41_dma.md R120). -/
def execWriteDataDMA (ptr len : Word) (s : State) : Host.Outcome State Fault Refusal :=
  whenReady s (.next (respond (boolResult (startDma ptr len s).2) (startDma ptr len s).1))

/-- `isTransferBusy() -> bool` (41_dma.md R121). -/
def execIsTransferBusy (s : State) : Host.Outcome State Fault Refusal :=
  whenReady s (.next (respond (boolResult s.busy) s))

/-- `waitTransferIdle()` (41_dma.md R122): returns at once when idle, else the main line holds. -/
def execWaitTransferIdle (s : State) : Host.Outcome State Fault Refusal :=
  whenReady s (if s.busy then .next { s with mainLine := .waiting } else .next (respond noResult s))

/-- The end of a hold: `waitTransferIdle` returns (41_dma.md R122, 30_encoding.md R73). -/
def releaseHold (s : State) : State := respond noResult { s with mainLine := .free }

/-- `DmaBeat` (41_dma.md R123): the next byte, read from host memory now, is clocked out. -/
def dmaBeat (s : State) : Host.Outcome State Fault Refusal :=
  let addr := s.dmaPtr.toNat + s.dmaPos.toNat
  if addr < addressSpace s.cfg then
    .next { drive (.tx (readByte s.mem addr)) s with dmaPos := s.dmaPos + 1 }
  else .fault .noSuchAddress

/-- `DmaDone` (41_dma.md R124): the completion interrupt is raised. -/
def dmaDone (s : State) : State := { s with irqPending := true }

/-- Whether the DMA agent or the completion handler has a step enabled. -/
def transferEnabled (s : State) : Bool :=
  s.irqHandlerEnabled || s.dmaBeatEnabled || s.dmaDoneEnabled

/-- The step of the DMA agent or the completion handler, whichever is enabled; none leaves the state as it is. -/
def transferStep (s : State) : Host.Outcome State Fault Refusal :=
  if s.irqHandlerEnabled then .next (returnFromInterrupt (takeCompletionInterrupt s))
  else if s.dmaBeatEnabled then dmaBeat s
  else if s.dmaDoneEnabled then .next (dmaDone s)
  else .next s

end Sys2Proof.Machine
end

