-- ==== Sys2Proof/Machine/Drawing.lean ====
section
/-! DEFINITION. The pixel, fill and bulk-write operations (44_drawing.md R183 to R190) and the two colour
conversions as operations (43_color.md R171, R172). -/

namespace Sys2Proof.Machine

/-- `drawPixel(x, y, c565)` (44_drawing.md R183). -/
def execDrawPixel (x y : Half) (c565 : Half) (s : State) : Host.Outcome State Fault Refusal :=
  whenReady s (conclude noResult (fillRect x y x y (pix565 c565) s))

/-- `drawPixelRGB24(x, y, c888)` (44_drawing.md R184). -/
def execDrawPixelRGB24 (x y : Half) (c888 : Imm) (s : State) : Host.Outcome State Fault Refusal :=
  whenReady s (conclude noResult (fillRect x y x y (pix888 c888) s))

/-- `fillArea(x0, y0, x1, y1, c565)` (44_drawing.md R185). -/
def execFillArea (x0 y0 x1 y1 : Half) (c565 : Half) (s : State) : Host.Outcome State Fault Refusal :=
  whenReady s (conclude noResult (fillRect x0 y0 x1 y1 (pix565 c565) s))

/-- `fillAreaRGB24(x0, y0, x1, y1, c888)` (44_drawing.md R186). -/
def execFillAreaRGB24 (x0 y0 x1 y1 : Half) (c888 : Imm) (s : State) : Host.Outcome State Fault Refusal :=
  whenReady s (conclude noResult (fillRect x0 y0 x1 y1 (pix888 c888) s))

/-- `fillScreen(c565)` (44_drawing.md R187). -/
def execFillScreen (c565 : Half) (s : State) : Host.Outcome State Fault Refusal :=
  whenReady s (conclude noResult (fillRect 0 0 (s.width - 1) (s.height - 1) (pix565 c565) s))

/-- `fillScreenRGB24(c888)` (44_drawing.md R188). -/
def execFillScreenRGB24 (c888 : Imm) (s : State) : Host.Outcome State Fault Refusal :=
  whenReady s (conclude noResult (fillRect 0 0 (s.width - 1) (s.height - 1) (pix888 c888) s))

/-- `writePixels(x0, y0, x1, y1, ptr, len)` (44_drawing.md R189). -/
def execWritePixels (x0 y0 x1 y1 : Half) (ptr len : Word) (s : State) : Host.Outcome State Fault Refusal :=
  whenReady s (conclude noResult (writeRect .rgb565 x0 y0 x1 y1 ptr len s))

/-- `writePixelsRGB24(x0, y0, x1, y1, ptr, len)` (44_drawing.md R190). -/
def execWritePixelsRGB24 (x0 y0 x1 y1 : Half) (ptr len : Word) (s : State) : Host.Outcome State Fault Refusal :=
  whenReady s (conclude noResult (writeRect .rgb888 x0 y0 x1 y1 ptr len s))

/-- `rgb565_to_rgb666(c565)`, in every phase (43_color.md R171). -/
def execRgb565ToRgb666 (c565 : Half) (s : State) : Host.Outcome State Fault Refusal :=
  .next (respond (colorResult (rgb565ToRgb666 c565).value) s)

/-- `rgb888_to_rgb666(c888)`, in every phase (43_color.md R172). -/
def execRgb888ToRgb666 (c888 : Imm) (s : State) : Host.Outcome State Fault Refusal :=
  .next (respond (colorResult (rgb888ToRgb666 c888).value) s)

end Sys2Proof.Machine
end

