-- ==== Sys2Proof/Machine/Engine.lean ====
section
/-! DEFINITION. The Addressing/Protocol Engine operations (42_addressing.md R141 to R151). -/

namespace Sys2Proof.Machine

/-- `initialize(ptr) -> bool` (42_addressing.md R141, R142, R143). -/
def execInitializeBlock (ptr : Word) (s : State) : Host.Outcome State Fault Refusal :=
  if s.phase = .ready then .next (respond (boolResult true) s)
  else if ptr = 0 ∨ s.cfg.transportInitOk = false then .next (respond (boolResult false) s)
  else conclude (boolResult true) (bringUp s)

/-- `setWindow(x0, y0, x1, y1)` (42_addressing.md R146). -/
def execSetWindow (x0 y0 x1 y1 : Half) (s : State) : Host.Outcome State Fault Refusal :=
  whenReady s (conclude noResult
    (match windowCheck s x0 y0 x1 y1 with
     | none => .ok s
     | some w => emitWindow w s))

/-- The engine state after a rotation is chosen, before its command is sent (42_addressing.md R147). -/
def rotate (rot : BitVec 2) (s : State) : State :=
  let upright := rot = 0 ∨ rot = 2
  let height := if upright then s.cfg.panelH else s.cfg.panelW
  let partY1 := umin s.partY1 (height - 1)
  { s with
    rotation := rot
    width := if upright then s.cfg.panelW else s.cfg.panelH
    height := height
    partY1 := partY1
    partY0 := umin s.partY0 partY1 }

/-- `setRotation(rot)` (42_addressing.md R147). -/
def execSetRotation (rot : BitVec 2) (s : State) : Host.Outcome State Fault Refusal :=
  whenReady s (conclude noResult (sendCmd 0x36 [s.cfg.rotTable[rot.toFin]] (rotate rot s)))

/-- `setPartialMode(flag)` (42_addressing.md R148). -/
def execSetPartialMode (flag : Bool) (s : State) : Host.Outcome State Fault Refusal :=
  whenReady s (conclude noResult (sendCmd (if flag then 0x12 else 0x13) [] { s with partialOn := flag }))

/-- The band of `setPartialArea`: put in order, then clamped below the height (42_addressing.md R149). -/
def bandOf (y0 y1 : Half) (s : State) : Half × Half :=
  (umin (umin y0 y1) (s.height - 1), umin (umax y0 y1) (s.height - 1))

/-- `setPartialArea(y0, y1)` (42_addressing.md R149). -/
def execSetPartialArea (y0 y1 : Half) (s : State) : Host.Outcome State Fault Refusal :=
  whenReady s (conclude noResult
    (sendCmd 0x30 (bigEndian (bandOf y0 y1 s).1 ++ bigEndian (bandOf y0 y1 s).2)
      { s with partY0 := (bandOf y0 y1 s).1, partY1 := (bandOf y0 y1 s).2 }))

/-- `writeDMA(ptr, len) -> bool` (42_addressing.md R150): `DC(D)` first, then `writeDataDMA`. -/
def execWriteDMA (ptr len : Word) (s : State) : Host.Outcome State Fault Refusal :=
  whenReady s
    (.next (respond (boolResult (startDma ptr len (drive (.dc .data) s)).2)
      (startDma ptr len (drive (.dc .data) s)).1))

/-- `teardown()` (42_addressing.md R151). -/
def execTeardown (s : State) : Host.Outcome State Fault Refusal :=
  whenReady s (conclude noResult (if s.xfer = .idle then .ok (releaseBlock s) else .error .busConflict))

end Sys2Proof.Machine
end

