-- ==== Sys2Proof/Machine/Transport.lean ====
section
/-! DEFINITION. The synchronous Transport operations (40_transport.md R102 to R109). -/

namespace Sys2Proof.Machine

/-- `writeCommand(byte)` (40_transport.md R102). -/
def execWriteCommand (byte : Byte) (s : State) : Host.Outcome State Fault Refusal :=
  whenReady s (conclude noResult (frame .command [byte] s))

/-- `writeData(byte)` (40_transport.md R103). -/
def execWriteData (byte : Byte) (s : State) : Host.Outcome State Fault Refusal :=
  whenReady s (conclude noResult (frame .data [byte] s))

/-- `writeDataBuffer(ptr, len)` (40_transport.md R104): nothing for an invalid range. -/
def execWriteDataBuffer (ptr len : Word) (s : State) : Host.Outcome State Fault Refusal :=
  whenReady s (conclude noResult
    (if validRange s.cfg ptr len then bufferFrame (readRange s.mem ptr.toNat len.toNat) s else .ok s))

/-- `reset()` (40_transport.md R106). -/
def execReset (s : State) : Host.Outcome State Fault Refusal :=
  whenReady s (conclude noResult (resetPulse s))

/-- `setBacklight(flag)` (40_transport.md R107), whatever `S.xfer` is. -/
def execSetBacklight (flag : Bool) (s : State) : Host.Outcome State Fault Refusal :=
  whenReady s (conclude noResult (.ok (drive (.bl (if flag then 255 else 0)) s)))

/-- `setBacklightBrightness(level)` (40_transport.md R108), whatever `S.xfer` is. -/
def execSetBacklightBrightness (level : Byte) (s : State) : Host.Outcome State Fault Refusal :=
  whenReady s (conclude noResult (.ok (drive (.bl level) s)))

end Sys2Proof.Machine
end

