-- ==== Sys2Proof/Machine/Wire.lean ====
section
/-! DEFINITION. The wire commands (30_encoding.md R80 to R91) as the framer drives them: `SendCmd` of the command
byte and its parameter bytes (40_transport.md R101). Log 8 says how one comes to run. -/

namespace Sys2Proof.Machine

/-- `wire.reset` (30_encoding.md R80). -/
def execWireReset (s : State) : Host.Outcome State Fault Refusal := runWire 0x01 [] s

/-- `wire.sleep-out` (30_encoding.md R81). -/
def execWireSleepOut (s : State) : Host.Outcome State Fault Refusal := runWire 0x11 [] s

/-- `wire.partial-mode-on` (30_encoding.md R82). -/
def execWirePartialModeOn (s : State) : Host.Outcome State Fault Refusal := runWire 0x12 [] s

/-- `wire.normal-mode-on` (30_encoding.md R83). -/
def execWireNormalModeOn (s : State) : Host.Outcome State Fault Refusal := runWire 0x13 [] s

/-- `wire.display-invert-on` (30_encoding.md R84). -/
def execWireDisplayInvertOn (s : State) : Host.Outcome State Fault Refusal := runWire 0x21 [] s

/-- `wire.display-on` (30_encoding.md R85). -/
def execWireDisplayOn (s : State) : Host.Outcome State Fault Refusal := runWire 0x29 [] s

/-- `wire.column-address-set` (30_encoding.md R86). -/
def execWireColumnAddressSet (a0 a1 : Half) (s : State) : Host.Outcome State Fault Refusal :=
  runWire 0x2A (bigEndian a0 ++ bigEndian a1) s

/-- `wire.row-address-set` (30_encoding.md R87). -/
def execWireRowAddressSet (b0 b1 : Half) (s : State) : Host.Outcome State Fault Refusal :=
  runWire 0x2B (bigEndian b0 ++ bigEndian b1) s

/-- `wire.memory-write` (30_encoding.md R88). -/
def execWireMemoryWrite (s : State) : Host.Outcome State Fault Refusal := runWire 0x2C [] s

/-- `wire.partial-area` (30_encoding.md R89). -/
def execWirePartialArea (p0 p1 : Half) (s : State) : Host.Outcome State Fault Refusal :=
  runWire 0x30 (bigEndian p0 ++ bigEndian p1) s

/-- `wire.memory-access-control` (30_encoding.md R90). -/
def execWireMemoryAccessControl (bits : Byte) (s : State) : Host.Outcome State Fault Refusal :=
  runWire 0x36 [bits] s

/-- `wire.pixel-format` (30_encoding.md R91). -/
def execWirePixelFormat (fmt : Byte) (s : State) : Host.Outcome State Fault Refusal :=
  runWire 0x3A [fmt] s

end Sys2Proof.Machine
end

