-- ==== Sys2Proof/Machine/Dispatch.lean ====
section
/-! DEFINITION. The meaning of every instruction: one arm per constructor of `Instr`. -/

namespace Sys2Proof.Machine

/-- One instruction executed by the main line. -/
def exec (i : Instr) (s : State) : Host.Outcome State Fault Refusal :=
  match i with
  | .writeCommand byte => Sys2Proof.Machine.execWriteCommand byte s
  | .writeData byte => Sys2Proof.Machine.execWriteData byte s
  | .writeDataBuffer ptr len => Sys2Proof.Machine.execWriteDataBuffer ptr len s
  | .writeDataDMA ptr len => Sys2Proof.Machine.execWriteDataDMA ptr len s
  | .isTransferBusy => Sys2Proof.Machine.execIsTransferBusy s
  | .waitTransferIdle => Sys2Proof.Machine.execWaitTransferIdle s
  | .reset => Sys2Proof.Machine.execReset s
  | .setBacklight flag => Sys2Proof.Machine.execSetBacklight flag s
  | .setBacklightBrightness level => Sys2Proof.Machine.execSetBacklightBrightness level s
  | .initializeBlock ptr => Sys2Proof.Machine.execInitializeBlock ptr s
  | .setWindow x0 y0 x1 y1 => Sys2Proof.Machine.execSetWindow x0 y0 x1 y1 s
  | .setRotation rot => Sys2Proof.Machine.execSetRotation rot s
  | .setPartialMode flag => Sys2Proof.Machine.execSetPartialMode flag s
  | .setPartialArea y0 y1 => Sys2Proof.Machine.execSetPartialArea y0 y1 s
  | .writeDMA ptr len => Sys2Proof.Machine.execWriteDMA ptr len s
  | .teardown => Sys2Proof.Machine.execTeardown s
  | .drawPixel x y c565 => Sys2Proof.Machine.execDrawPixel x y c565 s
  | .drawPixelRGB24 x y c888 => Sys2Proof.Machine.execDrawPixelRGB24 x y c888 s
  | .fillArea x0 y0 x1 y1 c565 => Sys2Proof.Machine.execFillArea x0 y0 x1 y1 c565 s
  | .fillAreaRGB24 x0 y0 x1 y1 c888 => Sys2Proof.Machine.execFillAreaRGB24 x0 y0 x1 y1 c888 s
  | .fillScreen c565 => Sys2Proof.Machine.execFillScreen c565 s
  | .fillScreenRGB24 c888 => Sys2Proof.Machine.execFillScreenRGB24 c888 s
  | .writePixels x0 y0 x1 y1 ptr len => Sys2Proof.Machine.execWritePixels x0 y0 x1 y1 ptr len s
  | .writePixelsRGB24 x0 y0 x1 y1 ptr len => Sys2Proof.Machine.execWritePixelsRGB24 x0 y0 x1 y1 ptr len s
  | .rgb565ToRgb666 c565 => Sys2Proof.Machine.execRgb565ToRgb666 c565 s
  | .rgb888ToRgb666 c888 => Sys2Proof.Machine.execRgb888ToRgb666 c888 s
  | .wireReset => Sys2Proof.Machine.execWireReset s
  | .wireSleepOut => Sys2Proof.Machine.execWireSleepOut s
  | .wirePartialModeOn => Sys2Proof.Machine.execWirePartialModeOn s
  | .wireNormalModeOn => Sys2Proof.Machine.execWireNormalModeOn s
  | .wireDisplayInvertOn => Sys2Proof.Machine.execWireDisplayInvertOn s
  | .wireDisplayOn => Sys2Proof.Machine.execWireDisplayOn s
  | .wireColumnAddressSet a0 a1 => Sys2Proof.Machine.execWireColumnAddressSet a0 a1 s
  | .wireRowAddressSet b0 b1 => Sys2Proof.Machine.execWireRowAddressSet b0 b1 s
  | .wireMemoryWrite => Sys2Proof.Machine.execWireMemoryWrite s
  | .wirePartialArea p0 p1 => Sys2Proof.Machine.execWirePartialArea p0 p1 s
  | .wireMemoryAccessControl bits => Sys2Proof.Machine.execWireMemoryAccessControl bits s
  | .wirePixelFormat fmt => Sys2Proof.Machine.execWirePixelFormat fmt s

end Sys2Proof.Machine
end

