-- ==== Sys2Proof/Machine/Fetch.lean ====
section
/-! DEFINITION. What happens next (41_dma.md section 1, 60_exceptions.md R221): which agent moves, how a request is
accepted (30_encoding.md R70, R75), and what the host's write to its memory does (20_memory.md R59). -/

namespace Sys2Proof.Machine

/-- What the block does next: it runs an instruction in a state, or the step is already decided. -/
inductive Fetched where
  | run (i : Instr) (s : State)
  | done (o : Host.Outcome State Fault Refusal)

/-- Whether an address lies in the buffer of the transfer in flight (60_exceptions.md R215). -/
def inFlightBuffer (a : Nat) (s : State) : Bool :=
  s.busy && decide (s.dmaPtr.toNat ≤ a) && decide (a < s.dmaPtr.toNat + s.dmaLen.toNat)

/-- The host writes a byte of its memory: a change inside the buffer of a transfer in flight is
`Undefined(BufferRace)` (20_memory.md R59, 60_exceptions.md R215; log 13); no byte stands past `2^PTR_BITS` (log 14). -/
def hostWrite (addr : Word) (b : Byte) (s : State) : Host.Outcome State Fault Refusal :=
  if addressSpace s.cfg ≤ addr.toNat then .fault .noSuchAddress
  else if inFlightBuffer addr.toNat s ∧ readByte s.mem addr.toNat ≠ b then .fault .bufferRace
  else .next { s with mem := writeByte s.mem addr.toNat b }

/-- A request is accepted: it leaves the port and its fields load the operand latch (30_encoding.md R70). -/
def acceptRequest (d : Descriptor) (rest : List Input) (s : State) : State :=
  { s with inputs := rest, latch := d.operands }

/-- A request at the free main line, taken at the port's widths: its operation runs, or an illegal code is answered
with no other effect (30_encoding.md R70, R75; logs 10, 12). -/
def fetchRequest (d : Descriptor) (rest : List Input) (s : State) : Fetched :=
  let d := d.taken s.cfg.ptrBits s.cfg.lenBits
  match decodeDescriptor d with
  | .ok i => .run i (acceptRequest d rest s)
  | .error _ => .done (.next (respond illegalResult { s with inputs := rest }))

/-- What the environment's next stimulus brings, the agents' own steps where there is none; a request behind a hold
waits (41_dma.md R122, 60_exceptions.md R221, 70_reset_and_hazards.md R256; log 6). -/
def fetchStimulus (s : State) : Fetched :=
  match s.inputs with
  | [] => .done (transferStep s)
  | .transferTurn :: rest => .done (transferStep { s with inputs := rest })
  | .hostWrite addr b :: rest => .done (hostWrite addr b { s with inputs := rest })
  | .request d :: rest => if s.mainLine = .waiting then .done (transferStep s) else fetchRequest d rest s

/-- What happens next. A hold ends as soon as the transfer is idle (41_dma.md R122); while it lasts the main line
takes no request and the other agents go on. A main line at a wire command drives it (log 8). -/
def fetch (s : State) : Fetched :=
  match s.mainLine with
  | .waiting => if s.xfer = .idle then .done (.next (releaseHold s)) else fetchStimulus s
  | .emitting i => .run i { s with mainLine := .free }
  | .free => fetchStimulus s

/-- The state with these words as what a free main line runs next: a descriptor at the request port, a wire command at
the point of its emission (logs 7, 8). Bytes that are no wire command place nothing. -/
def placeNext (e : Encoded) (s : State) : State :=
  match e with
  | .descriptor d => { s with mainLine := .free, inputs := .request d :: s.inputs }
  | .wire bytes =>
    match decodeWire bytes with
    | .ok i => { s with mainLine := .emitting i }
    | .error _ => s

end Sys2Proof.Machine
end

