-- ==== Sys2Proof/Machine/Step.lean ====
section
/-! DEFINITION. One step of the block: what `fetch` says happens next, an instruction run by `exec`. -/

namespace Sys2Proof.Machine

/-- One step. -/
def step (s : State) : Host.Outcome State Fault Refusal :=
  match fetch s with
  | .run i s' => exec i s'
  | .done o => o

/-- The state with the instruction whose table bits are `w` as what runs next (logs 7, 8). -/
def State.withFetchWord (s : State) (nbits w : Nat) : State := placeNext (encodedOfTable nbits w) s

end Sys2Proof.Machine
end

