-- ==== Sys2Proof/Machine/Sink.lean ====
section
/-! DEFINITION. What stands behind the wire: the tagged byte stream (00_scope.md R9), the controller registers the
block writes as a view of it (10_state.md R34), and the reference sink (20_memory.md R63, R64), a test harness and no
model of the controller. None of it is state of the block (logs 21, 22). -/

namespace Sys2Proof.Machine

/-- The walk of `Stream` from a current tag: a byte under no tag is not listed (R9 shows that none is). -/
def streamFrom : Option Tag → List Event → List (Tag × Byte)
  | _, [] => []
  | _, .dc t :: es => streamFrom (some t) es
  | some t, .tx b :: es => (t, b) :: streamFrom (some t) es
  | none, .tx _ :: es => streamFrom none es
  | t, .cs _ :: es => streamFrom t es
  | t, .rst _ :: es => streamFrom t es
  | t, .delay _ :: es => streamFrom t es
  | t, .bl _ :: es => streamFrom t es

/-- `Stream(trace)` (00_scope.md R9). -/
def stream (es : List Event) : List (Tag × Byte) := streamFrom none es

/-- The parameter bytes last sent with command `c`: a controller register the block writes (10_state.md R34), none
before the first such command; the flag says whether the last command byte was `c`. -/
def lastParametersFrom (c : Byte) : Bool → Option (List Byte) → List (Tag × Byte) → Option (List Byte)
  | _, found, [] => found
  | _, found, (.command, b) :: rest =>
    if b = c then lastParametersFrom c true (some []) rest else lastParametersFrom c false found rest
  | true, found, (.data, b) :: rest => lastParametersFrom c true (found.map (· ++ [b])) rest
  | false, found, (.data, _) :: rest => lastParametersFrom c false found rest

/-- The parameter bytes last sent with command `c` in a stream (10_state.md R34). -/
def lastParameters (c : Byte) (st : List (Tag × Byte)) : Option (List Byte) := lastParametersFrom c false none st

/-- The sink's mode (20_memory.md R64). -/
inductive SinkMode where
  | none
  | col
  | row
  | mem
  | other
deriving DecidableEq, Repr

/-- The inputs on which the harness "stops with an error" (20_memory.md R64). -/
inductive SinkError where
  /-- a data byte before any command -/
  | dataBeforeCommand
  /-- a fifth byte in mode Col or Row -/
  | fifthBoundByte
  /-- a pixel with `cy > ye` -/
  | pastWindow
deriving DecidableEq, Repr

/-- The reference sink (20_memory.md R64); the cursor is a pair of naturals, as every sum is (00_scope.md R6), so it can
stand one past the last column; `gram` lists the newest write first. -/
structure Sink where
  xs : Half
  xe : Half
  ys : Half
  ye : Half
  cx : Nat
  cy : Nat
  mode : SinkMode
  acc : List Byte
  gram : List ((Nat × Nat) × (Byte × Byte × Byte))
deriving DecidableEq, Repr

/-- The sink before any byte: mode None, nothing held, no cell written. R64 gives `xs`, `xe`, `ys`, `ye` and the cursor
`(cx, cy)` no first value: each is a free value (DESIGN CHOICE, log 21). -/
def Sink.fresh : Sink where
  xs := Config.sinkStart 0
  xe := Config.sinkStart 1
  ys := Config.sinkStart 2
  ye := Config.sinkStart 3
  cx := (Config.sinkStart 4).toNat
  cy := (Config.sinkStart 5).toNat
  mode := .none
  acc := []
  gram := []

/-- What the sink holds at a cell: its newest write. -/
def Sink.at (k : Sink) (x y : Nat) : Option (Byte × Byte × Byte) :=
  (k.gram.find? fun e => e.1 = (x, y)).map Prod.snd

/-- A command byte at the sink (20_memory.md R64). -/
def Sink.command (k : Sink) (c : Byte) : Sink :=
  if c = 0x2A then { k with mode := .col, acc := [] }
  else if c = 0x2B then { k with mode := .row, acc := [] }
  else if c = 0x2C then { k with mode := .mem, cx := k.xs.toNat, cy := k.ys.toNat, acc := [] }
  else { k with mode := .other }

/-- A whole pixel at the sink: the cell at the cursor, then the cursor moves on (20_memory.md R64). -/
def Sink.pixel (k : Sink) (r g b : Byte) : Except SinkError Sink :=
  if k.cy > k.ye.toNat then .error .pastWindow
  else
    let k := { k with acc := [], gram := ((k.cx, k.cy), (r, g, b)) :: k.gram }
    if k.cx + 1 > k.xe.toNat then .ok { k with cx := k.xs.toNat, cy := k.cy + 1 } else .ok { k with cx := k.cx + 1 }

/-- A data byte at the sink (20_memory.md R64); a bound is `b0 * 256 + b1`. -/
def Sink.data (k : Sink) (b : Byte) : Except SinkError Sink :=
  match k.mode, k.acc with
  | .none, _ => .error .dataBeforeCommand
  | .other, _ => .ok k
  | .col, [b0, b1, b2] => .ok { k with acc := [b0, b1, b2, b], xs := ofBigEndian b0 b1, xe := ofBigEndian b2 b }
  | .row, [b0, b1, b2] => .ok { k with acc := [b0, b1, b2, b], ys := ofBigEndian b0 b1, ye := ofBigEndian b2 b }
  | .col, acc => if acc.length < 4 then .ok { k with acc := acc ++ [b] } else .error .fifthBoundByte
  | .row, acc => if acc.length < 4 then .ok { k with acc := acc ++ [b] } else .error .fifthBoundByte
  | .mem, [r, g] => k.pixel r g b
  | .mem, acc => .ok { k with acc := acc ++ [b] }

/-- The sink fed a stream, left to right (20_memory.md R64). -/
def Sink.feed : Sink → List (Tag × Byte) → Except SinkError Sink
  | k, [] => .ok k
  | k, (.command, c) :: rest => Sink.feed (k.command c) rest
  | k, (.data, b) :: rest =>
    match k.data b with
    | .ok k => Sink.feed k rest
    | .error e => .error e

end Sys2Proof.Machine
end

