-- ==== Sys2Proof/Safety.lean ====
section
/-! DEFINITION. What counts as a good state and a good trace: the invariant of 10_state.md R37, the framing
discipline of 40_transport.md R100, quiescence (70_reset_and_hazards.md R256), and which parts of the state the spec
leaves unspecified (10_state.md R36). -/

namespace Sys2Proof.Machine

/-- A wire command as the trace shows it: the command byte in a frame of its own, its parameters together in a
second (40_transport.md R101); the short forms `<C:..> <D:..>` of 42_addressing.md. -/
def commandEvents (c : Byte) (params : List Byte) : List Event :=
  frameEvents .command [c] ++ if params = [] then [] else frameEvents .data params

/-- The three addressing commands of a window (42_addressing.md R145). -/
def windowEvents (w : Rect) : List Event :=
  commandEvents 0x2A [hi8 w.a0, lo8 w.a0, hi8 w.a1, lo8 w.a1] ++
    commandEvents 0x2B [hi8 w.b0, lo8 w.b0, hi8 w.b1, lo8 w.b1] ++ commandEvents 0x2C []

/-- `n` copies of a pixel's bytes, `rep(n, p)` (00_scope.md R6). -/
def rep (n : Nat) (p : List Byte) : List Byte := (List.replicate n p).flatten

/-- The data frames of a fill of `n` pixels: full batches, then the rest (44_drawing.md R181). -/
def fillEvents (batch n : Nat) (p : List Byte) : List Event :=
  (List.replicate (n / batch) (frameEvents .data (rep batch p))).flatten ++
    if n % batch = 0 then [] else frameEvents .data (rep (n % batch) p)

/-- The data frames of a stream of `n` pixels, pixel `q` with the bytes `pixel q`: frame `f` holds pixels
`f * batch` up to the next batch or the end (44_drawing.md R182). -/
def pixelEvents (batch n : Nat) (pixel : Nat → List Byte) : List Event :=
  (List.range ((n + batch - 1) / batch)).flatMap fun f =>
    frameEvents .data ((List.range (min batch (n - f * batch))).flatMap fun j => pixel (f * batch + j))

/-- `Pause(k)` as the trace shows it (42_addressing.md R141). -/
def pauseEvents (ms : Nat) : List Event := if ms = 0 then [] else [.delay ms]

/-- The logical size belongs to the rotation (10_state.md R23, R37 (a)). -/
def sizeMatchesRotation (s : State) : Prop :=
  if s.rotation = 0 ∨ s.rotation = 2 then s.width = s.cfg.panelW ∧ s.height = s.cfg.panelH
  else s.width = s.cfg.panelH ∧ s.height = s.cfg.panelW

/-- The stored band lies inside the height, first row not above the last (10_state.md R37 (b)). -/
def bandInside (s : State) : Prop := s.partY0 ≤ s.partY1 ∧ s.partY1 < s.height

/-- A transfer that is not idle holds chip-select and the data level in phase `Ready`, has a valid buffer and has
not passed its end (10_state.md R37 (c), (e), 41_dma.md R120). -/
def transferSound (s : State) : Prop :=
  s.xfer ≠ .idle →
    s.xfer = .inFlight ∧ s.cs = .asserted ∧ s.dc = .data ∧ s.phase = .ready ∧ s.dmaClaimed = true ∧
      s.dmaPos ≤ s.dmaLen ∧ validRange s.cfg s.dmaPtr s.dmaLen = true

/-- A pending interrupt belongs to a transfer whose last byte is out (10_state.md R37 (d)). -/
def interruptSound (s : State) : Prop :=
  s.irqPending = true → s.xfer = .inFlight ∧ s.dmaPos = s.dmaLen

/-- The invariant of every state between two steps: 10_state.md R37 (a) to (e); `Initializing` is never seen between
operations (R22), a hold exists only in phase `Ready`, the main line is at no wire command (30_encoding.md
R79: the block receives none; log 8), the sequencer is idle and its buffer has its size (R31), and host memory is in
canonical form and inside its address space; the configuration is one 00_scope.md R5 admits. -/
structure Invariant (s : State) : Prop where
  admitted : s.cfg.admitted = true
  size : sizeMatchesRotation s
  band : bandInside s
  phase : s.phase ≠ .initializing
  transfer : transferSound s
  interrupt : interruptSound s
  hold : s.mainLine = .waiting → s.phase = .ready
  emission : ∀ i, s.mainLine ≠ .emitting i
  sequencer : s.seqState = .seqIdle
  batch : s.batch.length = 3 * s.cfg.batchPixels.toNat
  memory : s.mem.wf = true
  inside : ∀ cell ∈ s.mem, cell.1 < addressSpace s.cfg

/-- The levels of chip-select and the data/command line as a trace's events leave them; none before the first. -/
structure Lines where
  cs : Option ChipSelect
  tag : Option Tag
deriving DecidableEq, Repr

/-- One event under the framing discipline: a byte is clocked out only under an asserted chip-select and a driven
data/command line (40_transport.md R100, 00_scope.md R9). -/
def Lines.event (l : Lines) : Event → Option Lines
  | .cs level => some { l with cs := some level }
  | .dc level => some { l with tag := some level }
  | .tx _ => if l.cs = some .asserted ∧ l.tag.isSome then some l else none
  | .rst _ => some l
  | .delay _ => some l
  | .bl _ => some l

/-- The lines after a trace, none where a byte breaks the discipline. -/
def Lines.after : Lines → List Event → Option Lines
  | l, [] => some l
  | l, e :: es =>
    match l.event e with
    | some l => Lines.after l es
    | none => none

/-- The lines after a whole trace. -/
def linesAfter (es : List Event) : Option Lines := Lines.after ⟨none, none⟩ es

/-- A well-framed state: its trace keeps the discipline; a transfer in flight holds chip-select and the data level;
with none in flight chip-select was last released (or never driven). -/
def wellFramed (s : State) : Prop :=
  ∃ l, linesAfter s.trace = some l ∧
    (s.xfer = .inFlight → l = ⟨some .asserted, some .data⟩) ∧ (s.xfer = .idle → l.cs ≠ some .asserted)

/-- Quiescence (70_reset_and_hazards.md R256): no stimulus left, no hold, no transfer. -/
def quiescent (s : State) : Prop := s.inputs = [] ∧ s.mainLine = .free ∧ s.xfer = .idle

/-- Two states that differ at most in what 10_state.md R36 leaves unspecified and in dead registers: pin levels,
backlight level, DMA registers while idle, batch buffer, sequencer registers, operand latch, and the model's count of
free values. -/
structure SameButUnspecified (s t : State) : Prop where
  cfg : s.cfg = t.cfg
  phase : s.phase = t.phase
  width : s.width = t.width
  height : s.height = t.height
  rotation : s.rotation = t.rotation
  partialOn : s.partialOn = t.partialOn
  partY0 : s.partY0 = t.partY0
  partY1 : s.partY1 = t.partY1
  xfer : s.xfer = t.xfer
  dmaClaimed : s.dmaClaimed = t.dmaClaimed
  dma : s.xfer ≠ .idle → s.dmaPtr = t.dmaPtr ∧ s.dmaLen = t.dmaLen ∧ s.dmaPos = t.dmaPos
  irqPending : s.irqPending = t.irqPending
  mainLine : s.mainLine = t.mainLine
  trace : s.trace = t.trace
  responses : s.responses = t.responses
  mem : s.mem = t.mem
  inputs : s.inputs = t.inputs

/-- Two outcomes that agree: the same stop, or next states that differ at most in what is unspecified. -/
def SameOutcome : Host.Outcome State Fault Refusal → Host.Outcome State Fault Refusal → Prop
  | .next s, .next t => SameButUnspecified s t
  | .fault f, .fault g => f = g
  | .refused r, .refused q => r = q
  | _, _ => False

/-- `k` steps of the block. -/
def runSteps (k : Nat) (s : State) : Host.Outcome State Fault Refusal :=
  match k with
  | 0 => .next s
  | k + 1 =>
    match step s with
    | .next s' => runSteps k s'
    | .fault f => .fault f
    | .refused r => .refused r

end Sys2Proof.Machine
end

