-- ==== Sys2Proof/Certificates/Slice0/Obligations.lean ====
section
/-! DEFINITION. The statements about the model, one `Obligations.<Name>` each. Their witnesses stand in
Sys2Proof/Tests/Slice0.lean. -/

open Sys2Proof Sys2Proof.Machine

/-! ## Encoding and the step -/

/-- Decoding the words of an instruction gives the instruction back, for all 38 constructors and every operand
(30_encoding.md sections 1 and 2). -/
def Obligations.DecodeEncodeRoundTrip : Prop := ∀ i : Instr, decode (encode i) = .ok i

/-- Words written out from 30_encoding.md R70, R74 and R80 to R91 decode to what they stand for. -/
def Obligations.WrittenOutWordsDecode : Prop :=
  decodeDescriptor ⟨0x4000002C, 0, 0, 0, 0⟩ = .ok (.writeCommand 0x2C) ∧
    decodeDescriptor ⟨0x43000000, 0, 0, 0x3000, 6⟩ = .ok (.writeDataDMA 0x3000 6) ∧
    decodeDescriptor ⟨0x54000000, 0x000000C8, 0x00000064, 0, 0⟩ = .ok (.setPartialArea 200 100) ∧
    decodeDescriptor ⟨0x63FF8000, 0x00020003, 0x00030003, 0, 0⟩ = .ok (.fillAreaRGB24 2 3 3 3 0xFF8000) ∧
    decodeDescriptor ⟨0x71123456, 0, 0, 0, 0⟩ = .ok (.rgb888ToRgb666 0x123456) ∧
    decodeWire [0x2A, 0x00, 0x05, 0x01, 0x3F] = .ok (.wireColumnAddressSet 5 319)

/-- Two descriptors with one code that agree on the fields and sub-fields the code's format reads (30_encoding.md
R71, R72) are one instruction: every other bit is ignored (R76). -/
def Obligations.UnusedDescriptorFieldsAreIgnored : Prop :=
  ∀ (d e : Descriptor) (code : Byte),
    d.w0.extractLsb' 24 8 = code → e.w0.extractLsb' 24 8 = code →
    let byteSame := d.w0.extractLsb' 0 8 = e.w0.extractLsb' 0 8
    let flagSame := d.w0.extractLsb' 0 1 = e.w0.extractLsb' 0 1
    let rotSame := d.w0.extractLsb' 0 2 = e.w0.extractLsb' 0 2
    let c565Same := d.w0.extractLsb' 0 16 = e.w0.extractLsb' 0 16
    let c888Same := d.w0.extractLsb' 0 24 = e.w0.extractLsb' 0 24
    let x0Same := d.w1.extractLsb' 16 16 = e.w1.extractLsb' 16 16
    let y0Same := d.w1.extractLsb' 0 16 = e.w1.extractLsb' 0 16
    let x1Same := d.w2.extractLsb' 16 16 = e.w2.extractLsb' 16 16
    let y1Same := d.w2.extractLsb' 0 16 = e.w2.extractLsb' 0 16
    let rectSame := x0Same ∧ y0Same ∧ x1Same ∧ y1Same
    let bufferSame := d.w3 = e.w3 ∧ d.w4 = e.w4
    (code ∈ ([0x44, 0x45, 0x46, 0x5F] : List Byte) → decodeDescriptor d = decodeDescriptor e) ∧
      (code ∈ ([0x40, 0x41, 0x48] : List Byte) → byteSame → decodeDescriptor d = decodeDescriptor e) ∧
      (code ∈ ([0x47, 0x53] : List Byte) → flagSame → decodeDescriptor d = decodeDescriptor e) ∧
      (code = 0x52 → rotSame → decodeDescriptor d = decodeDescriptor e) ∧
      (code ∈ ([0x64, 0x70] : List Byte) → c565Same → decodeDescriptor d = decodeDescriptor e) ∧
      (code ∈ ([0x65, 0x71] : List Byte) → c888Same → decodeDescriptor d = decodeDescriptor e) ∧
      (code ∈ ([0x42, 0x43, 0x55] : List Byte) → bufferSame → decodeDescriptor d = decodeDescriptor e) ∧
      (code = 0x50 → d.w3 = e.w3 → decodeDescriptor d = decodeDescriptor e) ∧
      (code = 0x51 → rectSame → decodeDescriptor d = decodeDescriptor e) ∧
      (code = 0x54 → y0Same → y1Same → decodeDescriptor d = decodeDescriptor e) ∧
      (code = 0x60 → x0Same → y0Same → c565Same → decodeDescriptor d = decodeDescriptor e) ∧
      (code = 0x61 → x0Same → y0Same → c888Same → decodeDescriptor d = decodeDescriptor e) ∧
      (code = 0x62 → rectSame → c565Same → decodeDescriptor d = decodeDescriptor e) ∧
      (code = 0x63 → rectSame → c888Same → decodeDescriptor d = decodeDescriptor e) ∧
      (code ∈ ([0x66, 0x67] : List Byte) → rectSame → bufferSame → decodeDescriptor d = decodeDescriptor e)

/-- A code outside the table of 30_encoding.md R74 is answered with `0x80000000`; nothing else changes, in every
phase and whatever the busy flag (R75). The request leaves the port. -/
def Obligations.IllegalCodesAreAnsweredWithoutEffect : Prop :=
  ∀ (s : State) (d : Descriptor) (rest : List Input),
    s.mainLine = .free → s.inputs = .request d :: rest →
    d.w0.extractLsb' 24 8 ∉
      ([0x40, 0x41, 0x42, 0x43, 0x44, 0x45, 0x46, 0x47, 0x48, 0x50, 0x51, 0x52, 0x53, 0x54, 0x55, 0x5F, 0x60, 0x61,
        0x62, 0x63, 0x64, 0x65, 0x66, 0x67, 0x70, 0x71] : List Byte) →
    step s = .next { s with inputs := rest, responses := s.responses ++ [0x80000000] }

/-- A request at the free main line that decodes to `i` runs `i`, in the state where the request has left the port
and the operand latch holds its fields (30_encoding.md R70). The pointer and the length are the low `PTR_BITS` and
`LEN_BITS` bits of their words (00_scope.md R5; for widths below 32 the model's choice, log 10); at the default widths
every bit of the words. -/
def Obligations.StepRunsTheDecodedRequest : Prop :=
  ∀ (s : State) (d : Descriptor) (rest : List Input) (i : Instr),
    s.mainLine = .free → s.inputs = .request d :: rest →
    let ptr : Word := BitVec.ofNat 32 (d.w3.toNat % 2 ^ s.cfg.ptrBits)
    let len : Word := BitVec.ofNat 32 (d.w4.toNat % 2 ^ s.cfg.lenBits)
    let loaded (p n : Word) : State := { s with
      inputs := rest
      latch :=
        { code := d.w0.extractLsb' 24 8, imm := d.w0.extractLsb' 0 24
          x0 := d.w1.extractLsb' 16 16, y0 := d.w1.extractLsb' 0 16
          x1 := d.w2.extractLsb' 16 16, y1 := d.w2.extractLsb' 0 16, ptr := p, len := n } }
    (decodeDescriptor { d with w3 := ptr, w4 := len } = .ok i → step s = exec i (loaded ptr len)) ∧
      (s.cfg.ptrBits = 32 → s.cfg.lenBits = 32 → decodeDescriptor d = .ok i →
        step s = exec i (loaded d.w3 d.w4))

/-- The model's choice (log 8): a main line that stands at a wire command runs it, and the words of a wire command placed
as what runs next put the main line there. No run reaches such a state: `StepKeepsTheInvariant` (30_encoding.md R79). -/
def Obligations.StepRunsTheDecodedWireCommand : Prop :=
  ∀ (s : State) (i : Instr),
    (s.mainLine = .emitting i → step s = exec i { s with mainLine := .free }) ∧
      ∀ bytes : List Byte, decodeWire bytes = .ok i →
        step (placeNext (.wire bytes) s) = exec i { s with mainLine := .free }

/-- A host operation that answers a next state has delivered exactly one response word, of the form its result
has, and left the main line as it was; or it is a `waitTransferIdle` that holds (30_encoding.md R73). -/
def Obligations.EachOperationDeliversOneResponse : Prop :=
  ∀ (i : Instr) (d : Descriptor) (s t : State), encode i = .descriptor d → exec i s = .next t →
    (i = .waitTransferIdle ∧ s.xfer ≠ .idle ∧ t = { s with mainLine := .waiting }) ∨
      ∃ v, t.responses = s.responses ++ [v] ∧ t.mainLine = s.mainLine ∧
        match i with
        | .rgb565ToRgb666 _ | .rgb888ToRgb666 _ => v.toNat < 2 ^ 18
        | .initializeBlock _ | .writeDataDMA _ _ | .writeDMA _ _ | .isTransferBusy => v = 0 ∨ v = 1
        | _ => v = 0

/-! ## Transport -/

/-- `writeCommand(byte)` (40_transport.md R102): one command frame of the byte, and nothing else but the response;
`BusConflict` while a transfer is not idle, `NotReady` before bring-up. -/
def Obligations.WriteCommandFramesItsByte : Prop :=
  ∀ (byte : Byte) (s : State),
    (s.phase = .ready → s.xfer = .idle →
      exec (.writeCommand byte) s = .next { s with
        trace := s.trace ++ [.cs .asserted, .dc .command, .tx byte, .cs .released]
        cs := .released, dc := .command, responses := s.responses ++ [0] }) ∧
    (s.phase = .ready → s.xfer ≠ .idle → exec (.writeCommand byte) s = .fault .busConflict) ∧
    (s.phase ≠ .ready → exec (.writeCommand byte) s = .fault .notReady)

/-- `writeData(byte)` (40_transport.md R103). -/
def Obligations.WriteDataFramesItsByte : Prop :=
  ∀ (byte : Byte) (s : State),
    (s.phase = .ready → s.xfer = .idle →
      exec (.writeData byte) s = .next { s with
        trace := s.trace ++ [.cs .asserted, .dc .data, .tx byte, .cs .released]
        cs := .released, dc := .data, responses := s.responses ++ [0] }) ∧
    (s.phase = .ready → s.xfer ≠ .idle → exec (.writeData byte) s = .fault .busConflict) ∧
    (s.phase ≠ .ready → exec (.writeData byte) s = .fault .notReady)

/-- `writeDataBuffer(ptr, len)` (40_transport.md R104): one data frame of the bytes in address order; no event for
an invalid range, even while a transfer is in flight. A range ends inside `2^PTR_BITS` bytes: the rule's `2^32` at the
default width, the model's reading at others (log 10). -/
def Obligations.WriteDataBufferFramesItsRange : Prop :=
  ∀ (ptr len : Word) (s : State),
    let valid := ptr ≠ 0 ∧ len ≠ 0 ∧ ptr.toNat + len.toNat ≤ 2 ^ s.cfg.ptrBits
    (s.phase = .ready → s.xfer = .idle → valid →
      exec (.writeDataBuffer ptr len) s = .next { s with
        trace := s.trace ++ ([.cs .asserted, .dc .data] ++
          (List.range len.toNat).map (fun k => .tx (readByte s.mem (ptr.toNat + k))) ++ [.cs .released])
        cs := .released, dc := .data, responses := s.responses ++ [0] }) ∧
    (s.phase = .ready → ¬valid →
      exec (.writeDataBuffer ptr len) s = .next { s with responses := s.responses ++ [0] }) ∧
    (s.phase = .ready → s.xfer ≠ .idle → valid → exec (.writeDataBuffer ptr len) s = .fault .busConflict) ∧
    (s.phase ≠ .ready → exec (.writeDataBuffer ptr len) s = .fault .notReady)

/-- Chunking (40_transport.md R105): a buffer is handed over in pieces of at most the chunk size, in address order and
together the buffer; with another chunk size every outcome of every instruction is the same but for that parameter. -/
def Obligations.ChunkingIsInvisible : Prop :=
  (∀ (chunk : Nat) (bytes : List Byte), 0 < chunk →
    (pieces chunk bytes).flatten = bytes ∧
      ∀ piece ∈ pieces chunk bytes, 0 < piece.length ∧ piece.length ≤ chunk) ∧
    ∀ (i : Instr) (s : State) (chunk : Word), 0 < chunk → 0 < s.cfg.chunkBytes →
      exec i { s with cfg := { s.cfg with chunkBytes := chunk } } =
        match exec i s with
        | .next t => .next { t with cfg := { t.cfg with chunkBytes := chunk } }
        | .fault f => .fault f
        | .refused r => .refused r

/-- `reset()` (40_transport.md R106): the three levels and the three delays, `S.rst` and nothing else. -/
def Obligations.ResetDrivesThePulse : Prop :=
  ∀ s : State,
    (s.phase = .ready → s.xfer = .idle →
      exec .reset s = .next { s with
        trace := s.trace ++ [.rst .high, .delay s.cfg.tRstSettle, .rst .low, .delay s.cfg.tRstPulse, .rst .high,
          .delay s.cfg.tRstRecover]
        rst := .high, responses := s.responses ++ [0] }) ∧
    (s.phase = .ready → s.xfer ≠ .idle → exec .reset s = .fault .busConflict) ∧
    (s.phase ≠ .ready → exec .reset s = .fault .notReady)

/-- `setBacklight` and `setBacklightBrightness` (40_transport.md R107, R108), whatever `S.xfer` is. -/
def Obligations.BacklightIsDrivenInAnyTransferState : Prop :=
  ∀ (flag : Bool) (level : Byte) (s : State),
    ∀ iv ∈ [(Instr.setBacklight flag, if flag then (255 : Byte) else 0), (Instr.setBacklightBrightness level, level)],
      (s.phase = .ready →
        exec iv.1 s = .next { s with
          trace := s.trace ++ [.bl iv.2], bl := iv.2, responses := s.responses ++ [0] }) ∧
      (s.phase ≠ .ready → exec iv.1 s = .fault .notReady)

/-! ## The DMA path and its agents -/

/-- `writeDataDMA(ptr, len)` (41_dma.md R120): it starts the transfer and answers true, or answers false with no
effect. A range ends inside `2^PTR_BITS` bytes: the rule's `2^32` at the default width, the model's reading at others
(log 10). -/
def Obligations.WriteDataDmaStartsOrAnswersFalse : Prop :=
  ∀ (ptr len : Word) (s : State),
    let starts := s.xfer = .idle ∧ (ptr ≠ 0 ∧ len ≠ 0 ∧ ptr.toNat + len.toNat ≤ 2 ^ s.cfg.ptrBits) ∧
      s.cfg.dmaCapable = true ∧ (s.dmaClaimed = true ∨ s.cfg.dmaClaimOk = true)
    (s.phase = .ready → starts →
      exec (.writeDataDMA ptr len) s = .next { s with
        trace := s.trace ++ [.cs .asserted, .dc .data], cs := .asserted, dc := .data, xfer := .inFlight
        dmaClaimed := true, dmaPtr := ptr, dmaLen := len, dmaPos := 0, responses := s.responses ++ [1] }) ∧
    (s.phase = .ready → ¬starts →
      exec (.writeDataDMA ptr len) s = .next { s with responses := s.responses ++ [0] }) ∧
    (s.phase ≠ .ready → exec (.writeDataDMA ptr len) s = .fault .notReady)

/-- `isTransferBusy()` (41_dma.md R121). -/
def Obligations.IsTransferBusyReadsTheFlag : Prop :=
  ∀ s : State,
    (s.phase = .ready →
      exec .isTransferBusy s = .next { s with
        responses := s.responses ++ [if s.xfer = .idle then 0 else 1] }) ∧
    (s.phase ≠ .ready → exec .isTransferBusy s = .fault .notReady)

/-- `waitTransferIdle()` (41_dma.md R122): it returns at once when idle and holds otherwise; while it holds no
descriptor is accepted, the other agents go on and no response is delivered; when the transfer is idle it returns. That
the agents move unprompted while a request waits, and that the hold ends at the first step that finds the transfer idle,
before any stimulus still to come, is the model's choice (log 6). -/
def Obligations.WaitTransferIdleReturnsOrHolds : Prop :=
  ∀ s : State,
    (s.phase = .ready → s.xfer = .idle →
      exec .waitTransferIdle s = .next { s with responses := s.responses ++ [0] }) ∧
    (s.phase = .ready → s.xfer ≠ .idle → exec .waitTransferIdle s = .next { s with mainLine := .waiting }) ∧
    (s.phase ≠ .ready → exec .waitTransferIdle s = .fault .notReady) ∧
    (∀ d rest, s.mainLine = .waiting → s.xfer ≠ .idle → s.inputs = .request d :: rest →
      step s = step { s with inputs := .transferTurn :: s.inputs }) ∧
    (∀ t, s.mainLine = .waiting → s.xfer ≠ .idle → step s = .next t →
      t.mainLine = .waiting ∧ t.responses = s.responses) ∧
    (s.mainLine = .waiting → s.xfer = .idle →
      step s = .next { s with mainLine := .free, responses := s.responses ++ [0] })

/-- `DmaBeat` (41_dma.md R123): the next byte of the buffer is clocked out and the position moves on. -/
def Obligations.DmaBeatClocksTheNextByte : Prop :=
  ∀ (s : State) (rest : List Input), interruptSound s → transferSound s →
    (s.mainLine = .free ∨ (s.mainLine = .waiting ∧ s.xfer ≠ .idle)) →
    s.inputs = .transferTurn :: rest → s.xfer = .inFlight → s.dmaPos < s.dmaLen →
    step s = .next { s with
      inputs := rest
      trace := s.trace ++ [.tx (readByte s.mem (s.dmaPtr.toNat + s.dmaPos.toNat))], dmaPos := s.dmaPos + 1 }

/-- `DmaDone` (41_dma.md R124): where it is enabled (a transfer in flight, every byte out, no interrupt pending) the
completion interrupt is raised and nothing else changes. That it is raised nowhere earlier is `DmaBeatClocksTheNextByte`
and the `interruptSound` that `StepKeepsTheInvariant` keeps. -/
def Obligations.DmaDoneRaisesTheInterrupt : Prop :=
  ∀ (s : State) (rest : List Input),
    (s.mainLine = .free ∨ (s.mainLine = .waiting ∧ s.xfer ≠ .idle)) →
    s.inputs = .transferTurn :: rest → s.xfer = .inFlight → s.dmaPos = s.dmaLen → s.irqPending = false →
    step s = .next { s with inputs := rest, irqPending := true }

/-- `IrqHandler` (60_exceptions.md R218): chip-select is released, the in-flight flag cleared, the interrupt
acknowledged, and nothing else changes. -/
def Obligations.CompletionHandlerReleasesTheBus : Prop :=
  ∀ (s : State) (rest : List Input), interruptSound s →
    (s.mainLine = .free ∨ (s.mainLine = .waiting ∧ s.xfer ≠ .idle)) →
    s.inputs = .transferTurn :: rest → s.irqPending = true →
    step s = .next { s with
      inputs := rest, trace := s.trace ++ [.cs .released], cs := .released, xfer := .idle, irqPending := false }

/-- The model's choice (logs 6, 17): with no stimulus left the other agents go on as if given a turn; a turn with no
agent enabled only passes; a quiescent block stays as it is (70_reset_and_hazards.md R256). -/
def Obligations.WithoutStimulusTheTransferGoesOn : Prop :=
  ∀ s : State,
    (s.inputs = [] → (s.mainLine = .free ∨ (s.mainLine = .waiting ∧ s.xfer ≠ .idle)) →
      step s = step { s with inputs := [.transferTurn] }) ∧
    (∀ rest, s.inputs = .transferTurn :: rest → s.mainLine = .free → s.xfer = .idle → s.irqPending = false →
      step s = .next { s with inputs := rest }) ∧
    (quiescent s → interruptSound s → step s = .next s)

/-- Completion is certain (41_dma.md R125, R127): from any sound state with a transfer in flight and no stimulus, the
rest of the buffer is clocked out in address order, chip-select is released and the transfer is idle, in exactly the
beats left and two steps more. That the agents move by themselves with no stimulus left is the model's choice (log 6); a
pending interrupt is `CompletionHandlerReleasesTheBus`. -/
def Obligations.TransferRunsToCompletion : Prop :=
  ∀ s : State, Invariant s → s.xfer = .inFlight → s.irqPending = false → s.inputs = [] → s.mainLine = .free →
    runSteps (s.dmaLen.toNat - s.dmaPos.toNat + 2) s = .next { s with
      trace := s.trace ++
        (List.range (s.dmaLen.toNat - s.dmaPos.toNat)).map
          (fun k => .tx (readByte s.mem (s.dmaPtr.toNat + s.dmaPos.toNat + k))) ++ [.cs .released]
      dmaPos := s.dmaLen, xfer := .idle, cs := .released, irqPending := false }

/-- The barrier (20_memory.md R60, 41_dma.md R122): a held `waitTransferIdle` returns, and only after every byte of the
transfer has been clocked out, chip-select released and the flag cleared. That the agents move
unprompted and the hold ends at the next step is the model's choice (log 6); a pending interrupt is
`CompletionHandlerReleasesTheBus`. -/
def Obligations.WaitReturnsAfterTheWholeTransfer : Prop :=
  ∀ s : State, Invariant s → s.xfer = .inFlight → s.irqPending = false → s.inputs = [] → s.mainLine = .waiting →
    (∀ k t, k ≤ s.dmaLen.toNat - s.dmaPos.toNat + 2 → runSteps k s = .next t → t.responses = s.responses) ∧
    runSteps (s.dmaLen.toNat - s.dmaPos.toNat + 3) s = .next { s with
      trace := s.trace ++
        (List.range (s.dmaLen.toNat - s.dmaPos.toNat)).map
          (fun k => .tx (readByte s.mem (s.dmaPtr.toNat + s.dmaPos.toNat + k))) ++ [.cs .released]
      dmaPos := s.dmaLen, xfer := .idle, cs := .released, irqPending := false
      mainLine := .free, responses := s.responses ++ [0] }

/-- A transfer on a quiet main line leaves the trace `writeDataBuffer` of the same range leaves (41_dma.md R127). That
the agents run it to its end with no stimulus left is the model's choice (log 6). -/
def Obligations.DmaTransferEqualsBufferFrame : Prop :=
  ∀ (ptr len : Word) (s : State), Invariant s → s.phase = .ready → s.xfer = .idle → s.inputs = [] →
    s.mainLine = .free → validRange s.cfg ptr len = true → s.cfg.dmaCapable = true →
    (s.dmaClaimed = true ∨ s.cfg.dmaClaimOk = true) →
    ∃ armed finished buffered,
      exec (.writeDataDMA ptr len) s = .next armed ∧ runSteps (len.toNat + 2) armed = .next finished ∧
        exec (.writeDataBuffer ptr len) s = .next buffered ∧ finished.trace = buffered.trace ∧
        finished.xfer = .idle ∧ finished.cs = buffered.cs ∧ finished.dc = buffered.dc ∧ finished.mem = s.mem

/-- Mutual exclusion (41_dma.md R126): while a transfer is not idle no operation drives more than `DC(D)` and the
backlight, none touches the transfer, and every request for a second one is answered false. -/
def Obligations.BusyMainLineDrivesNoBus : Prop :=
  ∀ (i : Instr) (s t : State), s.phase = .ready → s.xfer ≠ .idle → exec i s = .next t →
    (∃ es, t.trace = s.trace ++ es ∧ ∀ e ∈ es, e = .dc .data ∨ ∃ v, e = .bl v) ∧
      t.xfer = s.xfer ∧ t.dmaPtr = s.dmaPtr ∧ t.dmaLen = s.dmaLen ∧ t.dmaPos = s.dmaPos ∧
      t.irqPending = s.irqPending ∧ t.cs = s.cs ∧
      ∀ ptr len, i = .writeDataDMA ptr len ∨ i = .writeDMA ptr len → t.responses = s.responses ++ [0]

/-- "This is the only place the in-flight flag transitions from InFlight to Idle" (10_state.md R26, 60_exceptions.md
R218): a step that ends a transfer is the completion handler's. -/
def Obligations.OnlyTheHandlerEndsATransfer : Prop :=
  ∀ s t : State, s.phase = .ready → s.xfer = .inFlight → step s = .next t → t.xfer ≠ .inFlight →
    s.irqPending = true ∧ t.xfer = .idle ∧ t.irqPending = false ∧ t.cs = .released ∧
      t.trace = s.trace ++ [.cs .released] ∧ t.dc = s.dc

/-- The host's writes (20_memory.md R59, 60_exceptions.md R215): a change inside the buffer of a transfer in flight is
`BufferRace`; any other write changes that byte of host memory and nothing else. That host writes are stimuli of single
bytes, taken also during a hold, and that writing the value a byte already has is no race, is the model's reading
(log 13); that an address past `2^PTR_BITS` names no byte is its choice (logs 10, 14). -/
def Obligations.BufferChangeInFlightIsARace : Prop :=
  ∀ (s : State) (a : Word) (b : Byte) (rest : List Input),
    s.inputs = .hostWrite a b :: rest → (s.mainLine = .free ∨ (s.mainLine = .waiting ∧ s.xfer ≠ .idle)) →
    let inside := a.toNat < 2 ^ s.cfg.ptrBits
    let race := s.xfer ≠ .idle ∧ s.dmaPtr.toNat ≤ a.toNat ∧ a.toNat < s.dmaPtr.toNat + s.dmaLen.toNat ∧
      readByte s.mem a.toNat ≠ b
    (¬inside → step s = .fault .noSuchAddress) ∧
      (inside → race → step s = .fault .bufferRace) ∧
      (inside → ¬race → ∃ m, step s = .next { s with inputs := rest, mem := m } ∧
        (s.mem.wf = true → m.wf = true ∧
          ∀ x, readByte m x = if x = a.toNat then b else readByte s.mem x))

/-! ## The engine -/

/-- `initialize(ptr)` (42_addressing.md R141 to R143): on a ready block true and nothing else, whatever the pointer and the
transfer; else false and nothing else for a null pointer or a Transport that fails; else the whole bring-up, in order,
and the state it leaves. The DMA registers and the sequencer's, to which the rule's steps give no value, are not
constrained (log 15). -/
def Obligations.InitializeBringsUpFailsOrIsIdempotent : Prop :=
  ∀ (ptr : Word) (s : State),
    (s.phase = .ready → exec (.initializeBlock ptr) s = .next { s with responses := s.responses ++ [1] }) ∧
    (s.phase ≠ .ready → (ptr = 0 ∨ s.cfg.transportInitOk = false) →
      exec (.initializeBlock ptr) s = .next { s with responses := s.responses ++ [0] }) ∧
    (s.phase ≠ .ready → ptr ≠ 0 → s.cfg.transportInitOk = true →
      ∃ dmaPtr dmaLen dmaPos seqState seqRemaining seqIndex,
        exec (.initializeBlock ptr) s = .next { s with
          phase := .ready, rotation := 0, width := s.cfg.panelW, height := s.cfg.panelH
          partialOn := false, partY0 := 0, partY1 := s.cfg.panelH - 1
          xfer := .idle, dmaClaimed := false, irqPending := false
          cs := .released, dc := .command, rst := .high, bl := 0
          trace := s.trace ++ ([.cs .released, .bl 0] ++
            [.rst .high, .delay s.cfg.tRstSettle, .rst .low, .delay s.cfg.tRstPulse, .rst .high,
              .delay s.cfg.tRstRecover] ++
            commandEvents 0x01 [] ++ pauseEvents s.cfg.initDelay[0] ++
            commandEvents 0x11 [] ++ pauseEvents s.cfg.initDelay[1] ++
            commandEvents 0x36 [s.cfg.rotTable[0]] ++ pauseEvents s.cfg.initDelay[2] ++
            commandEvents 0x3A [0x66] ++ pauseEvents s.cfg.initDelay[3] ++
            s.cfg.calibTable.flatMap (fun c => commandEvents c.1 c.2) ++ pauseEvents s.cfg.initDelay[4] ++
            commandEvents 0x21 [] ++ pauseEvents s.cfg.initDelay[5] ++
            commandEvents 0x29 [] ++ pauseEvents s.cfg.initDelay[6])
          dmaPtr := dmaPtr, dmaLen := dmaLen, dmaPos := dmaPos
          seqState := seqState, seqRemaining := seqRemaining, seqIndex := seqIndex
          responses := s.responses ++ [1] })

/-- `WindowCheck` (42_addressing.md R144): the rectangle with each axis put in order, given exactly when it lies inside
the current bounds and, in partial mode, inside the band. -/
def Obligations.WindowCheckNormalisesAndRejects : Prop :=
  ∀ (s : State) (x0 y0 x1 y1 : Half) (w : Rect),
    windowCheck s x0 y0 x1 y1 = some w ↔
      (w.a0.toNat = min x0.toNat x1.toNat ∧ w.a1.toNat = max x0.toNat x1.toNat ∧
        w.b0.toNat = min y0.toNat y1.toNat ∧ w.b1.toNat = max y0.toNat y1.toNat) ∧
      (w.a1.toNat < s.width.toNat ∧ w.b1.toNat < s.height.toNat) ∧
      (s.partialOn = true → s.partY0.toNat ≤ w.b0.toNat ∧ w.b1.toNat ≤ s.partY1.toNat)

/-- `setWindow` (42_addressing.md R146, its commands R145): the three addressing commands of a window that passes; nothing for
one that does not, even while a transfer is in flight. -/
def Obligations.SetWindowSendsThreeCommands : Prop :=
  ∀ (x0 y0 x1 y1 : Half) (s : State),
    (∀ w, s.phase = .ready → windowCheck s x0 y0 x1 y1 = some w → s.xfer = .idle →
      exec (.setWindow x0 y0 x1 y1) s = .next { s with
        trace := s.trace ++
          (commandEvents 0x2A [hi8 w.a0, lo8 w.a0, hi8 w.a1, lo8 w.a1] ++
            commandEvents 0x2B [hi8 w.b0, lo8 w.b0, hi8 w.b1, lo8 w.b1] ++ commandEvents 0x2C [])
        cs := .released, dc := .command, responses := s.responses ++ [0] }) ∧
    (s.phase = .ready → windowCheck s x0 y0 x1 y1 = none →
      exec (.setWindow x0 y0 x1 y1) s = .next { s with responses := s.responses ++ [0] }) ∧
    (∀ w, s.phase = .ready → windowCheck s x0 y0 x1 y1 = some w → s.xfer ≠ .idle →
      exec (.setWindow x0 y0 x1 y1) s = .fault .busConflict) ∧
    (s.phase ≠ .ready → exec (.setWindow x0 y0 x1 y1) s = .fault .notReady)

/-- The corners of a rectangle may be given in either order on each axis (42_addressing.md R146, 44_drawing.md R185,
R189). -/
def Obligations.CornerOrderDoesNotMatter : Prop :=
  ∀ (x0 y0 x1 y1 : Half) (c565 : Half) (c888 : Imm) (ptr len : Word) (s : State),
    ∀ op ∈ [fun a b c d => Instr.setWindow a b c d, fun a b c d => Instr.fillArea a b c d c565,
        fun a b c d => Instr.fillAreaRGB24 a b c d c888, fun a b c d => Instr.writePixels a b c d ptr len,
        fun a b c d => Instr.writePixelsRGB24 a b c d ptr len],
      exec (op x0 y0 x1 y1) s = exec (op x1 y0 x0 y1) s ∧ exec (op x0 y0 x1 y1) s = exec (op x0 y1 x1 y0) s

/-- `setRotation(rot)` (42_addressing.md R147): size and band from the rotation, one memory-access-control command. -/
def Obligations.SetRotationAssignsSizeAndBand : Prop :=
  ∀ (rot : BitVec 2) (s : State),
    let width := if rot = 0 ∨ rot = 2 then s.cfg.panelW else s.cfg.panelH
    let height := if rot = 0 ∨ rot = 2 then s.cfg.panelH else s.cfg.panelW
    let p1 := if s.partY1 ≤ height - 1 then s.partY1 else height - 1
    let p0 := if s.partY0 ≤ p1 then s.partY0 else p1
    (s.phase = .ready → s.xfer = .idle →
      exec (.setRotation rot) s = .next { s with
        rotation := rot, width := width, height := height, partY0 := p0, partY1 := p1
        trace := s.trace ++ (commandEvents 0x36 [s.cfg.rotTable[rot.toFin]])
        cs := .released, dc := .data, responses := s.responses ++ [0] }) ∧
    (s.phase = .ready → s.xfer ≠ .idle → exec (.setRotation rot) s = .fault .busConflict) ∧
    (s.phase ≠ .ready → exec (.setRotation rot) s = .fault .notReady)

/-- `setPartialMode(flag)` (42_addressing.md R148): the flag and its one command. -/
def Obligations.SetPartialModeSendsOneCommand : Prop :=
  ∀ (flag : Bool) (s : State),
    (s.phase = .ready → s.xfer = .idle →
      exec (.setPartialMode flag) s = .next { s with
        partialOn := flag, trace := s.trace ++ commandEvents (if flag then 0x12 else 0x13) []
        cs := .released, dc := .command, responses := s.responses ++ [0] }) ∧
    (s.phase = .ready → s.xfer ≠ .idle → exec (.setPartialMode flag) s = .fault .busConflict) ∧
    (s.phase ≠ .ready → exec (.setPartialMode flag) s = .fault .notReady)

/-- `setPartialArea(y0, y1)` (42_addressing.md R149): the bounds put in order and clamped below the height, stored and
sent. -/
def Obligations.SetPartialAreaClampsAndSends : Prop :=
  ∀ (y0 y1 : Half) (s : State), s.height ≠ 0 →
    (s.phase = .ready → s.xfer = .idle →
      ∃ p0 p1 : Half, p0.toNat = min (min y0.toNat y1.toNat) (s.height.toNat - 1) ∧
        p1.toNat = min (max y0.toNat y1.toNat) (s.height.toNat - 1) ∧
        exec (.setPartialArea y0 y1) s = .next { s with
          partY0 := p0, partY1 := p1, trace := s.trace ++ commandEvents 0x30 [hi8 p0, lo8 p0, hi8 p1, lo8 p1]
          cs := .released, dc := .data, responses := s.responses ++ [0] }) ∧
    (s.phase = .ready → s.xfer ≠ .idle → exec (.setPartialArea y0 y1) s = .fault .busConflict) ∧
    (s.phase ≠ .ready → exec (.setPartialArea y0 y1) s = .fault .notReady)

/-- `writeDMA(ptr, len)` (42_addressing.md R150): `DC(D)` first, whatever follows, then `writeDataDMA`, whose
range ends inside `2^PTR_BITS` bytes (`2^32` at the default width; log 10). -/
def Obligations.WriteDmaDrivesDataFirst : Prop :=
  ∀ (ptr len : Word) (s : State),
    let starts := s.xfer = .idle ∧ (ptr ≠ 0 ∧ len ≠ 0 ∧ ptr.toNat + len.toNat ≤ 2 ^ s.cfg.ptrBits) ∧
      s.cfg.dmaCapable = true ∧ (s.dmaClaimed = true ∨ s.cfg.dmaClaimOk = true)
    (s.phase = .ready → starts →
      exec (.writeDMA ptr len) s = .next { s with
        trace := s.trace ++ [.dc .data, .cs .asserted, .dc .data], cs := .asserted, dc := .data, xfer := .inFlight
        dmaClaimed := true, dmaPtr := ptr, dmaLen := len, dmaPos := 0, responses := s.responses ++ [1] }) ∧
    (s.phase = .ready → ¬starts →
      exec (.writeDMA ptr len) s = .next { s with
        trace := s.trace ++ [.dc .data], dc := .data, responses := s.responses ++ [0] }) ∧
    (s.phase ≠ .ready → exec (.writeDMA ptr len) s = .fault .notReady)

/-- `teardown()` (42_addressing.md R151): every field with a reset value takes it, the trace is kept; what 10_state.md
R36 leaves unspecified is not constrained. -/
def Obligations.TeardownRestoresTheResetState : Prop :=
  ∀ s : State,
    (s.phase = .ready → s.xfer = .idle →
      ∃ t, exec .teardown s = .next t ∧
        t.phase = .uninitialized ∧ t.xfer = .idle ∧ t.rotation = 0 ∧
        t.width = s.cfg.panelW ∧ t.height = s.cfg.panelH ∧ t.partialOn = false ∧ t.partY0 = 0 ∧
        t.partY1 = s.cfg.panelH - 1 ∧ t.dmaClaimed = false ∧ t.irqPending = false ∧ t.seqState = .seqIdle ∧
        t.trace = s.trace ∧ t.responses = s.responses ++ [0] ∧ t.cfg = s.cfg ∧ t.mainLine = s.mainLine ∧
        t.inputs = s.inputs ∧ ∀ a, readByte t.mem a = readByte s.mem a) ∧
    (s.phase = .ready → s.xfer ≠ .idle → exec .teardown s = .fault .busConflict) ∧
    (s.phase ≠ .ready → exec .teardown s = .fault .notReady)

/-! ## Drawing and colour -/

/-- `drawPixel` and `drawPixelRGB24` (44_drawing.md R183, R184): the one-cell window and one frame of three bytes, or
nothing where the pixel is outside the bounds or the band. The sequencer's counters, dead between operations
(10_state.md R31), are not constrained here nor below. -/
def Obligations.DrawPixelSendsOnePixelOrNothing : Prop :=
  ∀ (x y : Half) (c565 : Half) (c888 : Imm) (s : State), 0 < s.cfg.batchPixels.toNat →
    ∀ ip ∈ [(Instr.drawPixel x y c565, pix565 c565), (Instr.drawPixelRGB24 x y c888, pix888 c888)],
      let inside := x < s.width ∧ y < s.height ∧ (s.partialOn = true → s.partY0 ≤ y ∧ y ≤ s.partY1)
      (s.phase = .ready → inside → s.xfer = .idle →
        ∃ r j, exec ip.1 s = .next { s with
          trace := s.trace ++ (windowEvents ⟨x, y, x, y⟩ ++ frameEvents .data ip.2)
          cs := .released, dc := .data, batch := ip.2 ++ s.batch.drop 3
          seqState := .seqIdle, seqRemaining := r, seqIndex := j, responses := s.responses ++ [0] }) ∧
      (s.phase = .ready → ¬inside → exec ip.1 s = .next { s with responses := s.responses ++ [0] }) ∧
      (s.phase = .ready → inside → s.xfer ≠ .idle → exec ip.1 s = .fault .busConflict) ∧
      (s.phase ≠ .ready → exec ip.1 s = .fault .notReady)

/-- `fillArea` and `fillAreaRGB24` (44_drawing.md R185, R186 with R181): the window, then its pixel count of one colour
in frames of at most a batch; nothing where the window is rejected. -/
def Obligations.FillAreaStreamsOneColour : Prop :=
  ∀ (x0 y0 x1 y1 : Half) (c565 : Half) (c888 : Imm) (s : State), 0 < s.cfg.batchPixels.toNat →
    ∀ ip ∈ [(Instr.fillArea x0 y0 x1 y1 c565, pix565 c565), (Instr.fillAreaRGB24 x0 y0 x1 y1 c888, pix888 c888)],
      (∀ w, s.phase = .ready → windowCheck s x0 y0 x1 y1 = some w → s.xfer = .idle →
        let n := (w.a1.toNat - w.a0.toNat + 1) * (w.b1.toNat - w.b0.toNat + 1)
        ∃ r j, exec ip.1 s = .next { s with
          trace := s.trace ++ (windowEvents w ++ fillEvents s.cfg.batchPixels.toNat n ip.2)
          cs := .released, dc := .data
          batch := rep (min n s.cfg.batchPixels.toNat) ip.2 ++ s.batch.drop (3 * min n s.cfg.batchPixels.toNat)
          seqState := .seqIdle, seqRemaining := r, seqIndex := j, responses := s.responses ++ [0] }) ∧
      (s.phase = .ready → windowCheck s x0 y0 x1 y1 = none →
        exec ip.1 s = .next { s with responses := s.responses ++ [0] }) ∧
      (∀ w, s.phase = .ready → windowCheck s x0 y0 x1 y1 = some w → s.xfer ≠ .idle →
        exec ip.1 s = .fault .busConflict) ∧
      (s.phase ≠ .ready → exec ip.1 s = .fault .notReady)

/-- `fillScreen` and `fillScreenRGB24` (44_drawing.md R187, R188): every pixel of the logical screen; nothing while
partial mode restricts the rows. -/
def Obligations.FillScreenFillsTheLogicalScreen : Prop :=
  ∀ (c565 : Half) (c888 : Imm) (s : State), 0 < s.cfg.batchPixels.toNat → s.width ≠ 0 → s.height ≠ 0 →
    ∀ ip ∈ [(Instr.fillScreen c565, pix565 c565), (Instr.fillScreenRGB24 c888, pix888 c888)],
      let wholeBand := s.partialOn = true → s.partY0 = 0 ∧ s.height - 1 ≤ s.partY1
      let n := s.width.toNat * s.height.toNat
      (s.phase = .ready → wholeBand → s.xfer = .idle →
        ∃ r j, exec ip.1 s = .next { s with
          trace := s.trace ++
            (windowEvents ⟨0, 0, s.width - 1, s.height - 1⟩ ++ fillEvents s.cfg.batchPixels.toNat n ip.2)
          cs := .released, dc := .data
          batch := rep (min n s.cfg.batchPixels.toNat) ip.2 ++ s.batch.drop (3 * min n s.cfg.batchPixels.toNat)
          seqState := .seqIdle, seqRemaining := r, seqIndex := j, responses := s.responses ++ [0] }) ∧
      (s.phase = .ready → ¬wholeBand → exec ip.1 s = .next { s with responses := s.responses ++ [0] }) ∧
      (s.phase = .ready → wholeBand → s.xfer ≠ .idle → exec ip.1 s = .fault .busConflict) ∧
      (s.phase ≠ .ready → exec ip.1 s = .fault .notReady)

/-- `writePixels` (44_drawing.md R189 with R182, 20_memory.md R52): pixel `q` of the window, in raster order, has the
colour of element `q mod len`, two bytes little-endian; the outcomes other than return. The used part ends inside
`2^PTR_BITS` bytes: the rule's `2^32` at the default width, the model's reading at others (log 10). -/
def Obligations.WritePixelsStreamsTheArray : Prop :=
  ∀ (x0 y0 x1 y1 : Half) (ptr len : Word) (s : State), 0 < s.cfg.batchPixels.toNat →
    let i := Instr.writePixels x0 y0 x1 y1 ptr len
    let element (q : Nat) : Nat := ptr.toNat + 2 * (q % len.toNat)
    let pixel (q : Nat) : List Byte := pix565 (readByte s.mem (element q + 1) ++ readByte s.mem (element q))
    (∀ w, s.phase = .ready → ptr ≠ 0 → len ≠ 0 → windowCheck s x0 y0 x1 y1 = some w →
      let n := (w.a1.toNat - w.a0.toNat + 1) * (w.b1.toNat - w.b0.toNat + 1)
      (ptr.toNat + 2 * min len.toNat n > 2 ^ s.cfg.ptrBits → exec i s = .fault .badRange) ∧
      (ptr.toNat + 2 * min len.toNat n ≤ 2 ^ s.cfg.ptrBits → s.xfer ≠ .idle → exec i s = .fault .busConflict) ∧
      (ptr.toNat + 2 * min len.toNat n ≤ 2 ^ s.cfg.ptrBits → s.xfer = .idle →
        ∃ b r j, (s.batch.length = 3 * s.cfg.batchPixels.toNat → b.length = 3 * s.cfg.batchPixels.toNat) ∧
          exec i s = .next { s with
            trace := s.trace ++ (windowEvents w ++ pixelEvents s.cfg.batchPixels.toNat n pixel)
            cs := .released, dc := .data, batch := b
            seqState := .seqIdle, seqRemaining := r, seqIndex := j
            responses := s.responses ++ [0] })) ∧
    (s.phase = .ready → ptr = 0 ∨ len = 0 ∨ windowCheck s x0 y0 x1 y1 = none →
      exec i s = .next { s with responses := s.responses ++ [0] }) ∧
    (s.phase ≠ .ready → exec i s = .fault .notReady)

/-- `writePixelsRGB24` (44_drawing.md R190 with R182, 20_memory.md R52): elements of four bytes, little-endian, the top
byte ignored; the
range as for `writePixels` (log 10). -/
def Obligations.WritePixelsRgb24StreamsTheArray : Prop :=
  ∀ (x0 y0 x1 y1 : Half) (ptr len : Word) (s : State), 0 < s.cfg.batchPixels.toNat →
    let i := Instr.writePixelsRGB24 x0 y0 x1 y1 ptr len
    let element (q : Nat) : Nat := ptr.toNat + 4 * (q % len.toNat)
    let pixel (q : Nat) : List Byte :=
      pix888 (readByte s.mem (element q + 2) ++ readByte s.mem (element q + 1) ++ readByte s.mem (element q))
    (∀ w, s.phase = .ready → ptr ≠ 0 → len ≠ 0 → windowCheck s x0 y0 x1 y1 = some w →
      let n := (w.a1.toNat - w.a0.toNat + 1) * (w.b1.toNat - w.b0.toNat + 1)
      (ptr.toNat + 4 * min len.toNat n > 2 ^ s.cfg.ptrBits → exec i s = .fault .badRange) ∧
      (ptr.toNat + 4 * min len.toNat n ≤ 2 ^ s.cfg.ptrBits → s.xfer ≠ .idle → exec i s = .fault .busConflict) ∧
      (ptr.toNat + 4 * min len.toNat n ≤ 2 ^ s.cfg.ptrBits → s.xfer = .idle →
        ∃ b r j, (s.batch.length = 3 * s.cfg.batchPixels.toNat → b.length = 3 * s.cfg.batchPixels.toNat) ∧
          exec i s = .next { s with
            trace := s.trace ++ (windowEvents w ++ pixelEvents s.cfg.batchPixels.toNat n pixel)
            cs := .released, dc := .data, batch := b
            seqState := .seqIdle, seqRemaining := r, seqIndex := j
            responses := s.responses ++ [0] })) ∧
    (s.phase = .ready → ptr = 0 ∨ len = 0 ∨ windowCheck s x0 y0 x1 y1 = none →
      exec i s = .next { s with responses := s.responses ++ [0] }) ∧
    (s.phase ≠ .ready → exec i s = .fault .notReady)

/-- The pixel count of a window that passed its check (44_drawing.md R191): between 1 and the panel's pixels, inside
32 bits. -/
def Obligations.PixelCountStaysInRange : Prop :=
  ∀ (s : State) (x0 y0 x1 y1 : Half) (w : Rect), sizeMatchesRotation s → windowCheck s x0 y0 x1 y1 = some w →
    1 ≤ w.columns ∧ w.columns ≤ s.width.toNat ∧ 1 ≤ w.rows ∧ w.rows ≤ s.height.toNat ∧
      1 ≤ w.pixels ∧ w.pixels ≤ s.cfg.panelW.toNat * s.cfg.panelH.toNat ∧ w.pixels ≤ 2 ^ 32 - 2 ^ 17 + 1

/-- Event counts (70_reset_and_hazards.md R255): a fill of `n` pixels is `26 + 3 n + 3 ceil(n / BATCH_PIXELS)` events;
its bytes are the three addressing commands and the pattern `n` times. -/
def Obligations.FillsHaveTheirEventCount : Prop :=
  ∀ (x0 y0 x1 y1 : Half) (c565 : Half) (s : State) (w : Rect), 0 < s.cfg.batchPixels.toNat → s.phase = .ready →
    s.xfer = .idle → windowCheck s x0 y0 x1 y1 = some w →
    ∃ t es, exec (.fillArea x0 y0 x1 y1 c565) s = .next t ∧ t.trace = s.trace ++ es ∧
      es.length =
        26 + 3 * w.pixels + 3 * ((w.pixels + s.cfg.batchPixels.toNat - 1) / s.cfg.batchPixels.toNat) ∧
      stream es =
        [(.command, 0x2A), (.data, hi8 w.a0), (.data, lo8 w.a0), (.data, hi8 w.a1), (.data, lo8 w.a1),
          (.command, 0x2B), (.data, hi8 w.b0), (.data, lo8 w.b0), (.data, hi8 w.b1), (.data, lo8 w.b1),
          (.command, 0x2C)] ++ (rep w.pixels (pix565 c565)).map (fun b => (Tag.data, b))

/-- Fill coverage (44_drawing.md R185, R191 with the reference sink of 20_memory.md R64): fed the events of a fill, a
sink with no cell written (log 21) holds the colour in exactly the cells of the window. -/
def Obligations.FillPaintsExactlyItsWindow : Prop :=
  ∀ (x0 y0 x1 y1 : Half) (c565 : Half) (c888 : Imm) (s : State) (w : Rect), 0 < s.cfg.batchPixels.toNat →
    s.phase = .ready → s.xfer = .idle → windowCheck s x0 y0 x1 y1 = some w →
    ∀ ip ∈ [(Instr.fillArea x0 y0 x1 y1 c565, rgb565ToRgb666 c565),
        (Instr.fillAreaRGB24 x0 y0 x1 y1 c888, rgb888ToRgb666 c888)],
      ∃ t es k, exec ip.1 s = .next t ∧ t.trace = s.trace ++ es ∧ Sink.fresh.feed (stream es) = .ok k ∧
        ∀ x y : Nat, k.at x y =
          if w.a0.toNat ≤ x ∧ x ≤ w.a1.toNat ∧ w.b0.toNat ≤ y ∧ y ≤ w.b1.toNat then
            some (ip.2.r.setWidth 8, ip.2.g.setWidth 8, ip.2.b.setWidth 8)
          else none

/-- Raster order (44_drawing.md R192 with the reference sink of 20_memory.md R64): pixel `q` of a bulk write of either
array format lands on `(a0 + q mod W, b0 + q div W)` with the colour of element `q mod len`, and no other cell of
a sink with no cell written (log 21) is touched. -/
def Obligations.WritePixelsLandsInRasterOrder : Prop :=
  ∀ (x0 y0 x1 y1 : Half) (ptr len : Word) (s : State) (w : Rect), 0 < s.cfg.batchPixels.toNat →
    s.phase = .ready → s.xfer = .idle → ptr ≠ 0 → len ≠ 0 → windowCheck s x0 y0 x1 y1 = some w →
    let byte (a : Nat) : Byte := readByte s.mem (ptr.toNat + a)
    ∀ op ∈ ([(Instr.writePixels x0 y0 x1 y1 ptr len, 2,
          fun e => rgb565ToRgb666 (byte (2 * e + 1) ++ byte (2 * e))),
        (Instr.writePixelsRGB24 x0 y0 x1 y1 ptr len, 4,
          fun e => rgb888ToRgb666 (byte (4 * e + 2) ++ byte (4 * e + 1) ++ byte (4 * e)))] :
          List (Instr × Nat × (Nat → Rgb666))),
      ptr.toNat + op.2.1 * min len.toNat w.pixels ≤ 2 ^ s.cfg.ptrBits →
      ∃ t es k, exec op.1 s = .next t ∧ t.trace = s.trace ++ es ∧ Sink.fresh.feed (stream es) = .ok k ∧
        (∀ q, q < w.pixels →
          let c := op.2.2 (q % len.toNat)
          k.at (w.a0.toNat + q % w.columns) (w.b0.toNat + q / w.columns) =
            some (c.r.setWidth 8, c.g.setWidth 8, c.b.setWidth 8)) ∧
        ∀ x y : Nat,
          ¬(w.a0.toNat ≤ x ∧ x ≤ w.a1.toNat ∧ w.b0.toNat ≤ y ∧ y ≤ w.b1.toNat) → k.at x y = none

/-- `rgb565_to_rgb666` as an operation (43_color.md R171): in every phase and transfer state the response's bits are the
channels' bits, a 5-bit channel followed by a copy of its top bit, the green channel as it stands (the spec's own
inference there); nothing else changes. -/
def Obligations.Rgb565ConversionAnswersItsChannelBits : Prop :=
  ∀ (c565 : Half) (s : State),
    exec (.rgb565ToRgb666 c565) s = .next { s with
      responses := s.responses ++
        [(0#14 ++ c565.extractLsb' 11 5 ++ c565.extractLsb' 15 1 ++ c565.extractLsb' 5 6 ++ c565.extractLsb' 0 5 ++
          c565.extractLsb' 4 1 : BitVec 32)] }

/-- `rgb888_to_rgb666` as an operation (43_color.md R172): in every phase and transfer state the response's bits are each
8-bit channel's top six; nothing else changes. -/
def Obligations.Rgb888ConversionAnswersItsTopBits : Prop :=
  ∀ (c888 : Imm) (s : State),
    exec (.rgb888ToRgb666 c888) s = .next { s with
      responses := s.responses ++
        [(0#14 ++ c888.extractLsb' 18 6 ++ c888.extractLsb' 10 6 ++ c888.extractLsb' 2 6 : BitVec 32)] }

/-- The colour test (43_color.md R174 with R173): widening a converted RGB565 colour keeps every bit of each channel,
the extremes map to the extremes, and a pixel's wire bytes carry its channels in bits 5:0 (R175). -/
def Obligations.ColourRoundTripKeepsTheChannels : Prop :=
  (∀ v : Half,
    let p := rgb666ToRgb888 (rgb565ToRgb666 v)
    p.1.extractLsb' 3 5 = v.extractLsb' 11 5 ∧ p.2.1.extractLsb' 2 6 = v.extractLsb' 5 6 ∧
      p.2.2.extractLsb' 3 5 = v.extractLsb' 0 5) ∧
    rgb666ToRgb888 (rgb565ToRgb666 0x0000) = (0, 0, 0) ∧
    rgb666ToRgb888 (rgb565ToRgb666 0xFFFF) = (255, 255, 255) ∧
    rgb888ToRgb666 0x000000 = ⟨0, 0, 0⟩ ∧ rgb888ToRgb666 0xFFFFFF = ⟨63, 63, 63⟩ ∧
    (∀ v : Half, pix565 v = [(rgb565ToRgb666 v).r.setWidth 8, (rgb565ToRgb666 v).g.setWidth 8,
      (rgb565ToRgb666 v).b.setWidth 8]) ∧
    ∀ c : Imm, pix888 c =
      [(c.extractLsb' 18 6).setWidth 8, (c.extractLsb' 10 6).setWidth 8, (c.extractLsb' 2 6).setWidth 8]

/-- The twelve wire commands (30_encoding.md R80 to R91 with 40_transport.md R101): each is driven as its command byte
in a frame of its own and its parameter bytes in a second; `BusConflict` while a transfer is not idle. That one can be
run as an instruction, in any phase, is the model's choice (log 8). -/
def Obligations.WireCommandsAreDrivenAsEncoded : Prop :=
  ∀ (u v : Half) (b : Byte) (s : State),
    ∀ icp ∈ ([(.wireReset, 0x01, []), (.wireSleepOut, 0x11, []), (.wirePartialModeOn, 0x12, []),
        (.wireNormalModeOn, 0x13, []), (.wireDisplayInvertOn, 0x21, []), (.wireDisplayOn, 0x29, []),
        (.wireColumnAddressSet u v, 0x2A, [hi8 u, lo8 u, hi8 v, lo8 v]),
        (.wireRowAddressSet u v, 0x2B, [hi8 u, lo8 u, hi8 v, lo8 v]), (.wireMemoryWrite, 0x2C, []),
        (.wirePartialArea u v, 0x30, [hi8 u, lo8 u, hi8 v, lo8 v]), (.wireMemoryAccessControl b, 0x36, [b]),
        (.wirePixelFormat b, 0x3A, [b])] : List (Instr × Byte × List Byte)),
      (s.xfer = .idle →
        exec icp.1 s = .next { s with
          trace := s.trace ++ ([.cs .asserted, .dc .command, .tx icp.2.1, .cs .released] ++
            if icp.2.2 = [] then [] else [.cs .asserted, .dc .data] ++ icp.2.2.map .tx ++ [.cs .released])
          cs := .released, dc := if icp.2.2 = [] then .command else .data }) ∧
      (s.xfer ≠ .idle → exec icp.1 s = .fault .busConflict)

/-! ## The machine as a whole -/

/-- Reset (10_state.md R36): every value the rule states. -/
def Obligations.ResetHoldsTheStatedValues : Prop :=
  let s := State.reset
  s.phase = .uninitialized ∧ s.xfer = .idle ∧ s.rotation = 0 ∧ s.width = 320 ∧ s.height = 480 ∧
    s.partialOn = false ∧ s.partY0 = 0 ∧ s.partY1 = 479 ∧ s.dmaClaimed = false ∧ s.irqPending = false ∧
    s.seqState = .seqIdle ∧ s.trace = [] ∧
    ∀ cfg : Params, (State.resetWith cfg).width = cfg.panelW ∧ (State.resetWith cfg).height = cfg.panelH ∧
      (State.resetWith cfg).partY1 = cfg.panelH - 1

/-- The invariant (10_state.md R37 and the rest of `Invariant`) holds after reset. -/
def Obligations.InvariantHoldsAtReset : Prop := Invariant State.reset

/-- Every step of the block keeps the invariant: 10_state.md R37 (a) to (e), no operation seen half done, no wire command
received (30_encoding.md R79), a canonical host memory. -/
def Obligations.StepKeepsTheInvariant : Prop :=
  ∀ s t : State, Invariant s → step s = .next t → Invariant t

/-- The trace of the block after reset is well framed. -/
def Obligations.FramingHoldsAtReset : Prop := wellFramed State.reset

/-- Every step keeps the framing discipline (40_transport.md R100, 00_scope.md R9): no byte is clocked out but under an
asserted chip-select and a driven data/command line, and chip-select is held exactly while a transfer is in flight. -/
def Obligations.StepKeepsTheFraming : Prop :=
  ∀ s t : State, wellFramed s → step s = .next t → wellFramed t

/-- "Unspecified means a model must not read it as any particular value" (10_state.md R36): two states that differ only
in unspecified or dead registers take the same step, with the same events, responses and stops. -/
def Obligations.UnspecifiedValuesAreNeverRead : Prop :=
  ∀ s t : State, SameButUnspecified s t → SameOutcome (step s) (step t)

/-- The trace only grows (10_state.md R38), so do the responses, and nothing writes the configuration (R21). -/
def Obligations.TraceOnlyGrows : Prop :=
  ∀ s t : State, step s = .next t → s.trace <+: t.trace ∧ s.responses <+: t.responses ∧ t.cfg = s.cfg

/-- The block never writes host memory (20_memory.md R54): no instruction changes a byte, and a step that does is the
host's own write. -/
def Obligations.TheBlockNeverWritesHostMemory : Prop :=
  (∀ (i : Instr) (s t : State), exec i s = .next t → ∀ a, readByte t.mem a = readByte s.mem a) ∧
    ∀ (s t : State) (a : Nat), step s = .next t → readByte t.mem a ≠ readByte s.mem a →
      ∃ (addr : Word) (b : Byte) (rest : List Input), s.inputs = .hostWrite addr b :: rest ∧ addr.toNat = a

/-- Who writes what (10_state.md R22 to R32, 42_addressing.md R141, R151): an instruction that changes a field is one the
field's rule names, but for three choices of the model: `initialize` leaves the DMA pointer, length and position and the
sequencer's registers (log 15), `teardown` gives the operand latch and the model's own count of free values new values
(log 5), and the hold is a field `mainLine` that `waitTransferIdle` alone writes (log 16). -/
def Obligations.EachFieldHasItsWriters : Prop :=
  ∀ (i : Instr) (s t : State), exec i s = .next t →
    let cycle := i = .teardown ∨ ∃ ptr, i = .initializeBlock ptr
    let rotates := ∃ rot, i = .setRotation rot
    let transfers := ∃ ptr len, i = .writeDataDMA ptr len ∨ i = .writeDMA ptr len
    let draws := (∃ x y c, i = .drawPixel x y c) ∨ (∃ x y c, i = .drawPixelRGB24 x y c) ∨
      (∃ x0 y0 x1 y1 c, i = .fillArea x0 y0 x1 y1 c) ∨ (∃ x0 y0 x1 y1 c, i = .fillAreaRGB24 x0 y0 x1 y1 c) ∨
      (∃ c, i = .fillScreen c) ∨ (∃ c, i = .fillScreenRGB24 c) ∨
      (∃ x0 y0 x1 y1 p n, i = .writePixels x0 y0 x1 y1 p n) ∨
      (∃ x0 y0 x1 y1 p n, i = .writePixelsRGB24 x0 y0 x1 y1 p n)
    (t.phase ≠ s.phase → cycle) ∧
      (t.rotation ≠ s.rotation ∨ t.width ≠ s.width ∨ t.height ≠ s.height → cycle ∨ rotates) ∧
      (t.partialOn ≠ s.partialOn → cycle ∨ ∃ flag, i = .setPartialMode flag) ∧
      (t.partY0 ≠ s.partY0 ∨ t.partY1 ≠ s.partY1 → cycle ∨ rotates ∨ ∃ y0 y1, i = .setPartialArea y0 y1) ∧
      (t.xfer ≠ s.xfer ∨ t.dmaClaimed ≠ s.dmaClaimed → cycle ∨ transfers) ∧
      (t.dmaPtr ≠ s.dmaPtr ∨ t.dmaLen ≠ s.dmaLen ∨ t.dmaPos ≠ s.dmaPos → i = .teardown ∨ transfers) ∧
      (t.irqPending ≠ s.irqPending → cycle) ∧
      (t.rst ≠ s.rst → cycle ∨ i = .reset) ∧
      (t.bl ≠ s.bl → cycle ∨ (∃ flag, i = .setBacklight flag) ∨ ∃ level, i = .setBacklightBrightness level) ∧
      (t.batch ≠ s.batch ∨ t.seqState ≠ s.seqState ∨ t.seqRemaining ≠ s.seqRemaining ∨ t.seqIndex ≠ s.seqIndex →
        i = .teardown ∨ draws) ∧
      (t.latch ≠ s.latch ∨ t.freeIndex ≠ s.freeIndex → i = .teardown) ∧
      (t.mainLine ≠ s.mainLine → i = .waitTransferIdle) ∧ t.inputs = s.inputs

/-- The engine's life cycle (42_addressing.md R152): `Ready` is entered only by `initialize`, at full refresh and
rotation 0, and left only by `teardown`, to `Uninitialized`. -/
def Obligations.ReadyIsEnteredUprightAndLeftByTeardown : Prop :=
  ∀ (i : Instr) (s t : State), exec i s = .next t →
    (s.phase ≠ .ready → t.phase = .ready →
      (∃ ptr, i = .initializeBlock ptr ∧ ptr ≠ 0) ∧ t.partialOn = false ∧ t.rotation = 0 ∧
        t.width = s.cfg.panelW ∧ t.height = s.cfg.panelH) ∧
    (s.phase = .ready → t.phase ≠ .ready → i = .teardown ∧ t.phase = .uninitialized)
end

