-- ==== Sys2Proof/Laws/Memory.lean ====
section
/-! SUPPORT. Host buffer memory: every operation keeps the canonical form, a byte written is read back, every other
byte is left alone, and equal contents are equal memories. -/

namespace Sys2Proof.Machine

@[simp] theorem Memory.wf_nil : Memory.wf [] = true := rfl

@[simp] theorem readByte_nil (a : Nat) : readByte [] a = unlistedByte := rfl

theorem readByte_cons (addr a : Nat) (b : Byte) (rest : Memory) :
    readByte ((addr, b) :: rest) a = if a = addr then b else readByte rest a := rfl

theorem wfFrom_cons {low addr : Nat} {b : Byte} {rest : Memory} :
    Memory.wfFrom low ((addr, b) :: rest) = true ↔
      low ≤ addr ∧ addr < widestSpace ∧ b ≠ unlistedByte ∧ Memory.wfFrom (addr + 1) rest = true := by
  simp [Memory.wfFrom, and_assoc]

theorem wfFrom_mono {low low' : Nat} (h : low' ≤ low) {m : Memory} (hm : Memory.wfFrom low m = true) :
    Memory.wfFrom low' m = true := by
  cases m with
  | nil => rfl
  | cons e rest =>
    obtain ⟨addr, b⟩ := e
    rw [wfFrom_cons] at hm ⊢
    exact ⟨h.trans hm.1, hm.2⟩

/-- Below its first address a canonical memory reads as nothing written. -/
theorem readByte_below {low a : Nat} {m : Memory} (hm : Memory.wfFrom low m = true) (ha : a < low) :
    readByte m a = unlistedByte := by
  induction m generalizing low with
  | nil => rfl
  | cons e rest ih =>
    obtain ⟨addr, b⟩ := e
    obtain ⟨h1, -, -, h4⟩ := wfFrom_cons.mp hm
    rw [readByte_cons, if_neg (by omega)]
    exact ih h4 (by omega)

theorem memoryCell_wfFrom {low a : Nat} {b : Byte} {rest : Memory} (hl : low ≤ a) (ha : a < widestSpace)
    (hr : Memory.wfFrom (a + 1) rest = true) : Memory.wfFrom low (memoryCell a b rest) = true := by
  unfold memoryCell
  split
  · exact wfFrom_mono (by omega) hr
  · exact wfFrom_cons.mpr ⟨hl, ha, ‹_›, hr⟩

theorem writeByte_wfFrom {low a : Nat} {b : Byte} {m : Memory} (hm : Memory.wfFrom low m = true)
    (hl : low ≤ a) (ha : a < widestSpace) : Memory.wfFrom low (writeByte m a b) = true := by
  induction m generalizing low with
  | nil => exact memoryCell_wfFrom hl ha rfl
  | cons e rest ih =>
    obtain ⟨addr, old⟩ := e
    obtain ⟨h1, h2, h3, h4⟩ := wfFrom_cons.mp hm
    unfold writeByte
    split
    · exact memoryCell_wfFrom hl ha (wfFrom_cons.mpr ⟨by omega, h2, h3, h4⟩)
    · split
      · subst_vars; exact memoryCell_wfFrom hl ha h4
      · exact wfFrom_cons.mpr ⟨h1, h2, h3, ih h4 (by omega)⟩

/-- Writing a byte whose address a word can name keeps the canonical form. -/
theorem writeByte_wf {m : Memory} {a : Nat} {b : Byte} (hm : m.wf = true) (ha : a < widestSpace) :
    (writeByte m a b).wf = true :=
  writeByte_wfFrom hm (Nat.zero_le a) ha

theorem readByte_memoryCell {low a x : Nat} {b : Byte} {rest : Memory} (hr : Memory.wfFrom low rest = true)
    (hl : a < low) : readByte (memoryCell a b rest) x = if x = a then b else readByte rest x := by
  unfold memoryCell
  split
  · next h =>
    split
    · next hx => rw [hx, h]; exact readByte_below hr hl
    · rfl
  · rfl

theorem readByte_writeByte_from {low a x : Nat} {b : Byte} {m : Memory} (hm : Memory.wfFrom low m = true) :
    readByte (writeByte m a b) x = if x = a then b else readByte m x := by
  induction m generalizing low with
  | nil => exact readByte_memoryCell (low := a + 1) (rest := []) rfl (by omega)
  | cons e rest ih =>
    obtain ⟨addr, old⟩ := e
    obtain ⟨h1, h2, h3, h4⟩ := wfFrom_cons.mp hm
    unfold writeByte
    split
    · next h => exact readByte_memoryCell (wfFrom_cons.mpr ⟨Nat.le_refl addr, h2, h3, h4⟩) h
    · split
      · next h =>
        subst h
        rw [readByte_memoryCell h4 (by omega), readByte_cons]
        split <;> simp_all
      · rw [readByte_cons, readByte_cons, ih h4]
        by_cases hx : x = addr
        · subst hx; simp; intro h; omega
        · simp [hx]

/-- A byte written is read back, and every other byte reads as before. -/
theorem readByte_writeByte {m : Memory} (hm : m.wf = true) (a x : Nat) (b : Byte) :
    readByte (writeByte m a b) x = if x = a then b else readByte m x :=
  readByte_writeByte_from hm

theorem mem_memoryCell {a : Nat} {b : Byte} {rest : Memory} {cell : Host.Cell} (h : cell ∈ memoryCell a b rest) :
    cell = (a, b) ∨ cell ∈ rest := by
  unfold memoryCell at h
  split at h
  · exact .inr h
  · simpa using h

/-- An entry after a write is the byte written or an entry there was. -/
theorem mem_writeByte {a : Nat} {b : Byte} {m : Memory} {cell : Host.Cell} (h : cell ∈ writeByte m a b) :
    cell = (a, b) ∨ cell ∈ m := by
  induction m with
  | nil => exact mem_memoryCell h
  | cons e rest ih =>
    obtain ⟨addr, old⟩ := e
    unfold writeByte at h
    split at h
    · exact mem_memoryCell h
    · split at h
      · exact (mem_memoryCell h).imp_right (List.mem_cons_of_mem _)
      · rcases List.mem_cons.mp h with h | h
        · exact .inr (by simp [h])
        · exact (ih h).imp_right (List.mem_cons_of_mem _)

/-- At the full width a descriptor is taken as it stands (30_encoding.md R70). -/
@[simp] theorem lowBits_full (w : Word) : lowBits 32 w = w := by
  unfold lowBits
  rw [Nat.mod_eq_of_lt w.isLt, BitVec.ofNat_toNat, BitVec.setWidth_eq]

@[simp] theorem Descriptor.taken_full (d : Descriptor) : d.taken 32 32 = d := by
  simp [Descriptor.taken]

/-- The code and every field but the pointer and the length are taken whole at any width. -/
@[simp] theorem Descriptor.taken_words (p l : Nat) (d : Descriptor) :
    (d.taken p l).w0 = d.w0 ∧ (d.taken p l).w1 = d.w1 ∧ (d.taken p l).w2 = d.w2 := ⟨rfl, rfl, rfl⟩

@[simp] theorem readRange_length (m : Memory) (a n : Nat) : (readRange m a n).length = n := by
  simp [readRange]

theorem validRange_iff {cfg : Params} {ptr n : Word} :
    validRange cfg ptr n = true ↔ ptr ≠ 0 ∧ n ≠ 0 ∧ ptr.toNat + n.toNat ≤ addressSpace cfg := by
  simp [validRange, and_assoc]

end Sys2Proof.Machine
end

