-- ==== Sys2Proof/Laws/State.lean ====
section
/-! SUPPORT. One lemma per field for each named update of the state, true by `rfl`. -/

namespace Sys2Proof.Machine

@[simp] theorem respond_cfg (v : Word) (s : State) : (respond v s).cfg = s.cfg := rfl
@[simp] theorem respond_phase (v : Word) (s : State) : (respond v s).phase = s.phase := rfl
@[simp] theorem respond_width (v : Word) (s : State) : (respond v s).width = s.width := rfl
@[simp] theorem respond_height (v : Word) (s : State) : (respond v s).height = s.height := rfl
@[simp] theorem respond_rotation (v : Word) (s : State) : (respond v s).rotation = s.rotation := rfl
@[simp] theorem respond_partialOn (v : Word) (s : State) : (respond v s).partialOn = s.partialOn := rfl
@[simp] theorem respond_partY0 (v : Word) (s : State) : (respond v s).partY0 = s.partY0 := rfl
@[simp] theorem respond_partY1 (v : Word) (s : State) : (respond v s).partY1 = s.partY1 := rfl
@[simp] theorem respond_xfer (v : Word) (s : State) : (respond v s).xfer = s.xfer := rfl
@[simp] theorem respond_dmaClaimed (v : Word) (s : State) : (respond v s).dmaClaimed = s.dmaClaimed := rfl
@[simp] theorem respond_dmaPtr (v : Word) (s : State) : (respond v s).dmaPtr = s.dmaPtr := rfl
@[simp] theorem respond_dmaLen (v : Word) (s : State) : (respond v s).dmaLen = s.dmaLen := rfl
@[simp] theorem respond_dmaPos (v : Word) (s : State) : (respond v s).dmaPos = s.dmaPos := rfl
@[simp] theorem respond_irqPending (v : Word) (s : State) : (respond v s).irqPending = s.irqPending := rfl
@[simp] theorem respond_cs (v : Word) (s : State) : (respond v s).cs = s.cs := rfl
@[simp] theorem respond_dc (v : Word) (s : State) : (respond v s).dc = s.dc := rfl
@[simp] theorem respond_rst (v : Word) (s : State) : (respond v s).rst = s.rst := rfl
@[simp] theorem respond_bl (v : Word) (s : State) : (respond v s).bl = s.bl := rfl
@[simp] theorem respond_batch (v : Word) (s : State) : (respond v s).batch = s.batch := rfl
@[simp] theorem respond_seqState (v : Word) (s : State) : (respond v s).seqState = s.seqState := rfl
@[simp] theorem respond_seqRemaining (v : Word) (s : State) : (respond v s).seqRemaining = s.seqRemaining := rfl
@[simp] theorem respond_seqIndex (v : Word) (s : State) : (respond v s).seqIndex = s.seqIndex := rfl
@[simp] theorem respond_latch (v : Word) (s : State) : (respond v s).latch = s.latch := rfl
@[simp] theorem respond_mainLine (v : Word) (s : State) : (respond v s).mainLine = s.mainLine := rfl
@[simp] theorem respond_trace (v : Word) (s : State) : (respond v s).trace = s.trace := rfl
@[simp] theorem respond_responses (v : Word) (s : State) : (respond v s).responses = s.responses ++ [v] := rfl
@[simp] theorem respond_mem (v : Word) (s : State) : (respond v s).mem = s.mem := rfl
@[simp] theorem respond_inputs (v : Word) (s : State) : (respond v s).inputs = s.inputs := rfl
@[simp] theorem respond_freeIndex (v : Word) (s : State) : (respond v s).freeIndex = s.freeIndex := rfl

@[simp] theorem primeBatch_cfg (bytes : List Byte) (s : State) : (primeBatch bytes s).cfg = s.cfg := rfl
@[simp] theorem primeBatch_phase (bytes : List Byte) (s : State) : (primeBatch bytes s).phase = s.phase := rfl
@[simp] theorem primeBatch_width (bytes : List Byte) (s : State) : (primeBatch bytes s).width = s.width := rfl
@[simp] theorem primeBatch_height (bytes : List Byte) (s : State) : (primeBatch bytes s).height = s.height := rfl
@[simp] theorem primeBatch_rotation (bytes : List Byte) (s : State) : (primeBatch bytes s).rotation = s.rotation := rfl
@[simp] theorem primeBatch_partialOn (bytes : List Byte) (s : State) : (primeBatch bytes s).partialOn = s.partialOn := rfl
@[simp] theorem primeBatch_partY0 (bytes : List Byte) (s : State) : (primeBatch bytes s).partY0 = s.partY0 := rfl
@[simp] theorem primeBatch_partY1 (bytes : List Byte) (s : State) : (primeBatch bytes s).partY1 = s.partY1 := rfl
@[simp] theorem primeBatch_xfer (bytes : List Byte) (s : State) : (primeBatch bytes s).xfer = s.xfer := rfl
@[simp] theorem primeBatch_dmaClaimed (bytes : List Byte) (s : State) : (primeBatch bytes s).dmaClaimed = s.dmaClaimed := rfl
@[simp] theorem primeBatch_dmaPtr (bytes : List Byte) (s : State) : (primeBatch bytes s).dmaPtr = s.dmaPtr := rfl
@[simp] theorem primeBatch_dmaLen (bytes : List Byte) (s : State) : (primeBatch bytes s).dmaLen = s.dmaLen := rfl
@[simp] theorem primeBatch_dmaPos (bytes : List Byte) (s : State) : (primeBatch bytes s).dmaPos = s.dmaPos := rfl
@[simp] theorem primeBatch_irqPending (bytes : List Byte) (s : State) : (primeBatch bytes s).irqPending = s.irqPending := rfl
@[simp] theorem primeBatch_cs (bytes : List Byte) (s : State) : (primeBatch bytes s).cs = s.cs := rfl
@[simp] theorem primeBatch_dc (bytes : List Byte) (s : State) : (primeBatch bytes s).dc = s.dc := rfl
@[simp] theorem primeBatch_rst (bytes : List Byte) (s : State) : (primeBatch bytes s).rst = s.rst := rfl
@[simp] theorem primeBatch_bl (bytes : List Byte) (s : State) : (primeBatch bytes s).bl = s.bl := rfl
@[simp] theorem primeBatch_batch (bytes : List Byte) (s : State) : (primeBatch bytes s).batch = bytes ++ s.batch.drop bytes.length := rfl
@[simp] theorem primeBatch_seqState (bytes : List Byte) (s : State) : (primeBatch bytes s).seqState = .seqPrime := rfl
@[simp] theorem primeBatch_seqRemaining (bytes : List Byte) (s : State) : (primeBatch bytes s).seqRemaining = s.seqRemaining := rfl
@[simp] theorem primeBatch_seqIndex (bytes : List Byte) (s : State) : (primeBatch bytes s).seqIndex = s.seqIndex := rfl
@[simp] theorem primeBatch_latch (bytes : List Byte) (s : State) : (primeBatch bytes s).latch = s.latch := rfl
@[simp] theorem primeBatch_mainLine (bytes : List Byte) (s : State) : (primeBatch bytes s).mainLine = s.mainLine := rfl
@[simp] theorem primeBatch_trace (bytes : List Byte) (s : State) : (primeBatch bytes s).trace = s.trace := rfl
@[simp] theorem primeBatch_responses (bytes : List Byte) (s : State) : (primeBatch bytes s).responses = s.responses := rfl
@[simp] theorem primeBatch_mem (bytes : List Byte) (s : State) : (primeBatch bytes s).mem = s.mem := rfl
@[simp] theorem primeBatch_inputs (bytes : List Byte) (s : State) : (primeBatch bytes s).inputs = s.inputs := rfl
@[simp] theorem primeBatch_freeIndex (bytes : List Byte) (s : State) : (primeBatch bytes s).freeIndex = s.freeIndex := rfl

@[simp] theorem dmaDone_cfg (s : State) : (dmaDone s).cfg = s.cfg := rfl
@[simp] theorem dmaDone_phase (s : State) : (dmaDone s).phase = s.phase := rfl
@[simp] theorem dmaDone_width (s : State) : (dmaDone s).width = s.width := rfl
@[simp] theorem dmaDone_height (s : State) : (dmaDone s).height = s.height := rfl
@[simp] theorem dmaDone_rotation (s : State) : (dmaDone s).rotation = s.rotation := rfl
@[simp] theorem dmaDone_partialOn (s : State) : (dmaDone s).partialOn = s.partialOn := rfl
@[simp] theorem dmaDone_partY0 (s : State) : (dmaDone s).partY0 = s.partY0 := rfl
@[simp] theorem dmaDone_partY1 (s : State) : (dmaDone s).partY1 = s.partY1 := rfl
@[simp] theorem dmaDone_xfer (s : State) : (dmaDone s).xfer = s.xfer := rfl
@[simp] theorem dmaDone_dmaClaimed (s : State) : (dmaDone s).dmaClaimed = s.dmaClaimed := rfl
@[simp] theorem dmaDone_dmaPtr (s : State) : (dmaDone s).dmaPtr = s.dmaPtr := rfl
@[simp] theorem dmaDone_dmaLen (s : State) : (dmaDone s).dmaLen = s.dmaLen := rfl
@[simp] theorem dmaDone_dmaPos (s : State) : (dmaDone s).dmaPos = s.dmaPos := rfl
@[simp] theorem dmaDone_irqPending (s : State) : (dmaDone s).irqPending = true := rfl
@[simp] theorem dmaDone_cs (s : State) : (dmaDone s).cs = s.cs := rfl
@[simp] theorem dmaDone_dc (s : State) : (dmaDone s).dc = s.dc := rfl
@[simp] theorem dmaDone_rst (s : State) : (dmaDone s).rst = s.rst := rfl
@[simp] theorem dmaDone_bl (s : State) : (dmaDone s).bl = s.bl := rfl
@[simp] theorem dmaDone_batch (s : State) : (dmaDone s).batch = s.batch := rfl
@[simp] theorem dmaDone_seqState (s : State) : (dmaDone s).seqState = s.seqState := rfl
@[simp] theorem dmaDone_seqRemaining (s : State) : (dmaDone s).seqRemaining = s.seqRemaining := rfl
@[simp] theorem dmaDone_seqIndex (s : State) : (dmaDone s).seqIndex = s.seqIndex := rfl
@[simp] theorem dmaDone_latch (s : State) : (dmaDone s).latch = s.latch := rfl
@[simp] theorem dmaDone_mainLine (s : State) : (dmaDone s).mainLine = s.mainLine := rfl
@[simp] theorem dmaDone_trace (s : State) : (dmaDone s).trace = s.trace := rfl
@[simp] theorem dmaDone_responses (s : State) : (dmaDone s).responses = s.responses := rfl
@[simp] theorem dmaDone_mem (s : State) : (dmaDone s).mem = s.mem := rfl
@[simp] theorem dmaDone_inputs (s : State) : (dmaDone s).inputs = s.inputs := rfl
@[simp] theorem dmaDone_freeIndex (s : State) : (dmaDone s).freeIndex = s.freeIndex := rfl

@[simp] theorem takeCompletionInterrupt_cfg (s : State) : (takeCompletionInterrupt s).cfg = s.cfg := rfl
@[simp] theorem takeCompletionInterrupt_phase (s : State) : (takeCompletionInterrupt s).phase = s.phase := rfl
@[simp] theorem takeCompletionInterrupt_width (s : State) : (takeCompletionInterrupt s).width = s.width := rfl
@[simp] theorem takeCompletionInterrupt_height (s : State) : (takeCompletionInterrupt s).height = s.height := rfl
@[simp] theorem takeCompletionInterrupt_rotation (s : State) : (takeCompletionInterrupt s).rotation = s.rotation := rfl
@[simp] theorem takeCompletionInterrupt_partialOn (s : State) : (takeCompletionInterrupt s).partialOn = s.partialOn := rfl
@[simp] theorem takeCompletionInterrupt_partY0 (s : State) : (takeCompletionInterrupt s).partY0 = s.partY0 := rfl
@[simp] theorem takeCompletionInterrupt_partY1 (s : State) : (takeCompletionInterrupt s).partY1 = s.partY1 := rfl
@[simp] theorem takeCompletionInterrupt_xfer (s : State) : (takeCompletionInterrupt s).xfer = .idle := rfl
@[simp] theorem takeCompletionInterrupt_dmaClaimed (s : State) : (takeCompletionInterrupt s).dmaClaimed = s.dmaClaimed := rfl
@[simp] theorem takeCompletionInterrupt_dmaPtr (s : State) : (takeCompletionInterrupt s).dmaPtr = s.dmaPtr := rfl
@[simp] theorem takeCompletionInterrupt_dmaLen (s : State) : (takeCompletionInterrupt s).dmaLen = s.dmaLen := rfl
@[simp] theorem takeCompletionInterrupt_dmaPos (s : State) : (takeCompletionInterrupt s).dmaPos = s.dmaPos := rfl
@[simp] theorem takeCompletionInterrupt_irqPending (s : State) : (takeCompletionInterrupt s).irqPending = false := rfl
@[simp] theorem takeCompletionInterrupt_cs (s : State) : (takeCompletionInterrupt s).cs = .released := rfl
@[simp] theorem takeCompletionInterrupt_dc (s : State) : (takeCompletionInterrupt s).dc = s.dc := rfl
@[simp] theorem takeCompletionInterrupt_rst (s : State) : (takeCompletionInterrupt s).rst = s.rst := rfl
@[simp] theorem takeCompletionInterrupt_bl (s : State) : (takeCompletionInterrupt s).bl = s.bl := rfl
@[simp] theorem takeCompletionInterrupt_batch (s : State) : (takeCompletionInterrupt s).batch = s.batch := rfl
@[simp] theorem takeCompletionInterrupt_seqState (s : State) : (takeCompletionInterrupt s).seqState = s.seqState := rfl
@[simp] theorem takeCompletionInterrupt_seqRemaining (s : State) : (takeCompletionInterrupt s).seqRemaining = s.seqRemaining := rfl
@[simp] theorem takeCompletionInterrupt_seqIndex (s : State) : (takeCompletionInterrupt s).seqIndex = s.seqIndex := rfl
@[simp] theorem takeCompletionInterrupt_latch (s : State) : (takeCompletionInterrupt s).latch = s.latch := rfl
@[simp] theorem takeCompletionInterrupt_mainLine (s : State) : (takeCompletionInterrupt s).mainLine = s.mainLine := rfl
@[simp] theorem takeCompletionInterrupt_trace (s : State) : (takeCompletionInterrupt s).trace = s.trace ++ [.cs .released] := rfl
@[simp] theorem takeCompletionInterrupt_responses (s : State) : (takeCompletionInterrupt s).responses = s.responses := rfl
@[simp] theorem takeCompletionInterrupt_mem (s : State) : (takeCompletionInterrupt s).mem = s.mem := rfl
@[simp] theorem takeCompletionInterrupt_inputs (s : State) : (takeCompletionInterrupt s).inputs = s.inputs := rfl
@[simp] theorem takeCompletionInterrupt_freeIndex (s : State) : (takeCompletionInterrupt s).freeIndex = s.freeIndex := rfl

@[simp] theorem acceptRequest_cfg (d : Descriptor) (rest : List Input) (s : State) : (acceptRequest d rest s).cfg = s.cfg := rfl
@[simp] theorem acceptRequest_phase (d : Descriptor) (rest : List Input) (s : State) : (acceptRequest d rest s).phase = s.phase := rfl
@[simp] theorem acceptRequest_width (d : Descriptor) (rest : List Input) (s : State) : (acceptRequest d rest s).width = s.width := rfl
@[simp] theorem acceptRequest_height (d : Descriptor) (rest : List Input) (s : State) : (acceptRequest d rest s).height = s.height := rfl
@[simp] theorem acceptRequest_rotation (d : Descriptor) (rest : List Input) (s : State) : (acceptRequest d rest s).rotation = s.rotation := rfl
@[simp] theorem acceptRequest_partialOn (d : Descriptor) (rest : List Input) (s : State) : (acceptRequest d rest s).partialOn = s.partialOn := rfl
@[simp] theorem acceptRequest_partY0 (d : Descriptor) (rest : List Input) (s : State) : (acceptRequest d rest s).partY0 = s.partY0 := rfl
@[simp] theorem acceptRequest_partY1 (d : Descriptor) (rest : List Input) (s : State) : (acceptRequest d rest s).partY1 = s.partY1 := rfl
@[simp] theorem acceptRequest_xfer (d : Descriptor) (rest : List Input) (s : State) : (acceptRequest d rest s).xfer = s.xfer := rfl
@[simp] theorem acceptRequest_dmaClaimed (d : Descriptor) (rest : List Input) (s : State) : (acceptRequest d rest s).dmaClaimed = s.dmaClaimed := rfl
@[simp] theorem acceptRequest_dmaPtr (d : Descriptor) (rest : List Input) (s : State) : (acceptRequest d rest s).dmaPtr = s.dmaPtr := rfl
@[simp] theorem acceptRequest_dmaLen (d : Descriptor) (rest : List Input) (s : State) : (acceptRequest d rest s).dmaLen = s.dmaLen := rfl
@[simp] theorem acceptRequest_dmaPos (d : Descriptor) (rest : List Input) (s : State) : (acceptRequest d rest s).dmaPos = s.dmaPos := rfl
@[simp] theorem acceptRequest_irqPending (d : Descriptor) (rest : List Input) (s : State) : (acceptRequest d rest s).irqPending = s.irqPending := rfl
@[simp] theorem acceptRequest_cs (d : Descriptor) (rest : List Input) (s : State) : (acceptRequest d rest s).cs = s.cs := rfl
@[simp] theorem acceptRequest_dc (d : Descriptor) (rest : List Input) (s : State) : (acceptRequest d rest s).dc = s.dc := rfl
@[simp] theorem acceptRequest_rst (d : Descriptor) (rest : List Input) (s : State) : (acceptRequest d rest s).rst = s.rst := rfl
@[simp] theorem acceptRequest_bl (d : Descriptor) (rest : List Input) (s : State) : (acceptRequest d rest s).bl = s.bl := rfl
@[simp] theorem acceptRequest_batch (d : Descriptor) (rest : List Input) (s : State) : (acceptRequest d rest s).batch = s.batch := rfl
@[simp] theorem acceptRequest_seqState (d : Descriptor) (rest : List Input) (s : State) : (acceptRequest d rest s).seqState = s.seqState := rfl
@[simp] theorem acceptRequest_seqRemaining (d : Descriptor) (rest : List Input) (s : State) : (acceptRequest d rest s).seqRemaining = s.seqRemaining := rfl
@[simp] theorem acceptRequest_seqIndex (d : Descriptor) (rest : List Input) (s : State) : (acceptRequest d rest s).seqIndex = s.seqIndex := rfl
@[simp] theorem acceptRequest_latch (d : Descriptor) (rest : List Input) (s : State) : (acceptRequest d rest s).latch = d.operands := rfl
@[simp] theorem acceptRequest_mainLine (d : Descriptor) (rest : List Input) (s : State) : (acceptRequest d rest s).mainLine = s.mainLine := rfl
@[simp] theorem acceptRequest_trace (d : Descriptor) (rest : List Input) (s : State) : (acceptRequest d rest s).trace = s.trace := rfl
@[simp] theorem acceptRequest_responses (d : Descriptor) (rest : List Input) (s : State) : (acceptRequest d rest s).responses = s.responses := rfl
@[simp] theorem acceptRequest_mem (d : Descriptor) (rest : List Input) (s : State) : (acceptRequest d rest s).mem = s.mem := rfl
@[simp] theorem acceptRequest_inputs (d : Descriptor) (rest : List Input) (s : State) : (acceptRequest d rest s).inputs = rest := rfl
@[simp] theorem acceptRequest_freeIndex (d : Descriptor) (rest : List Input) (s : State) : (acceptRequest d rest s).freeIndex = s.freeIndex := rfl

@[simp] theorem releaseHold_cfg (s : State) : (releaseHold s).cfg = s.cfg := rfl
@[simp] theorem releaseHold_phase (s : State) : (releaseHold s).phase = s.phase := rfl
@[simp] theorem releaseHold_width (s : State) : (releaseHold s).width = s.width := rfl
@[simp] theorem releaseHold_height (s : State) : (releaseHold s).height = s.height := rfl
@[simp] theorem releaseHold_rotation (s : State) : (releaseHold s).rotation = s.rotation := rfl
@[simp] theorem releaseHold_partialOn (s : State) : (releaseHold s).partialOn = s.partialOn := rfl
@[simp] theorem releaseHold_partY0 (s : State) : (releaseHold s).partY0 = s.partY0 := rfl
@[simp] theorem releaseHold_partY1 (s : State) : (releaseHold s).partY1 = s.partY1 := rfl
@[simp] theorem releaseHold_xfer (s : State) : (releaseHold s).xfer = s.xfer := rfl
@[simp] theorem releaseHold_dmaClaimed (s : State) : (releaseHold s).dmaClaimed = s.dmaClaimed := rfl
@[simp] theorem releaseHold_dmaPtr (s : State) : (releaseHold s).dmaPtr = s.dmaPtr := rfl
@[simp] theorem releaseHold_dmaLen (s : State) : (releaseHold s).dmaLen = s.dmaLen := rfl
@[simp] theorem releaseHold_dmaPos (s : State) : (releaseHold s).dmaPos = s.dmaPos := rfl
@[simp] theorem releaseHold_irqPending (s : State) : (releaseHold s).irqPending = s.irqPending := rfl
@[simp] theorem releaseHold_cs (s : State) : (releaseHold s).cs = s.cs := rfl
@[simp] theorem releaseHold_dc (s : State) : (releaseHold s).dc = s.dc := rfl
@[simp] theorem releaseHold_rst (s : State) : (releaseHold s).rst = s.rst := rfl
@[simp] theorem releaseHold_bl (s : State) : (releaseHold s).bl = s.bl := rfl
@[simp] theorem releaseHold_batch (s : State) : (releaseHold s).batch = s.batch := rfl
@[simp] theorem releaseHold_seqState (s : State) : (releaseHold s).seqState = s.seqState := rfl
@[simp] theorem releaseHold_seqRemaining (s : State) : (releaseHold s).seqRemaining = s.seqRemaining := rfl
@[simp] theorem releaseHold_seqIndex (s : State) : (releaseHold s).seqIndex = s.seqIndex := rfl
@[simp] theorem releaseHold_latch (s : State) : (releaseHold s).latch = s.latch := rfl
@[simp] theorem releaseHold_mainLine (s : State) : (releaseHold s).mainLine = .free := rfl
@[simp] theorem releaseHold_trace (s : State) : (releaseHold s).trace = s.trace := rfl
@[simp] theorem releaseHold_responses (s : State) : (releaseHold s).responses = s.responses ++ [noResult] := rfl
@[simp] theorem releaseHold_mem (s : State) : (releaseHold s).mem = s.mem := rfl
@[simp] theorem releaseHold_inputs (s : State) : (releaseHold s).inputs = s.inputs := rfl
@[simp] theorem releaseHold_freeIndex (s : State) : (releaseHold s).freeIndex = s.freeIndex := rfl

@[simp] theorem drive_cs_to_cfg (l : ChipSelect) (s : State) : (drive (.cs l) s).cfg = s.cfg := rfl
@[simp] theorem drive_cs_to_phase (l : ChipSelect) (s : State) : (drive (.cs l) s).phase = s.phase := rfl
@[simp] theorem drive_cs_to_width (l : ChipSelect) (s : State) : (drive (.cs l) s).width = s.width := rfl
@[simp] theorem drive_cs_to_height (l : ChipSelect) (s : State) : (drive (.cs l) s).height = s.height := rfl
@[simp] theorem drive_cs_to_rotation (l : ChipSelect) (s : State) : (drive (.cs l) s).rotation = s.rotation := rfl
@[simp] theorem drive_cs_to_partialOn (l : ChipSelect) (s : State) : (drive (.cs l) s).partialOn = s.partialOn := rfl
@[simp] theorem drive_cs_to_partY0 (l : ChipSelect) (s : State) : (drive (.cs l) s).partY0 = s.partY0 := rfl
@[simp] theorem drive_cs_to_partY1 (l : ChipSelect) (s : State) : (drive (.cs l) s).partY1 = s.partY1 := rfl
@[simp] theorem drive_cs_to_xfer (l : ChipSelect) (s : State) : (drive (.cs l) s).xfer = s.xfer := rfl
@[simp] theorem drive_cs_to_dmaClaimed (l : ChipSelect) (s : State) : (drive (.cs l) s).dmaClaimed = s.dmaClaimed := rfl
@[simp] theorem drive_cs_to_dmaPtr (l : ChipSelect) (s : State) : (drive (.cs l) s).dmaPtr = s.dmaPtr := rfl
@[simp] theorem drive_cs_to_dmaLen (l : ChipSelect) (s : State) : (drive (.cs l) s).dmaLen = s.dmaLen := rfl
@[simp] theorem drive_cs_to_dmaPos (l : ChipSelect) (s : State) : (drive (.cs l) s).dmaPos = s.dmaPos := rfl
@[simp] theorem drive_cs_to_irqPending (l : ChipSelect) (s : State) : (drive (.cs l) s).irqPending = s.irqPending := rfl
@[simp] theorem drive_cs_to_cs (l : ChipSelect) (s : State) : (drive (.cs l) s).cs = l := rfl
@[simp] theorem drive_cs_to_dc (l : ChipSelect) (s : State) : (drive (.cs l) s).dc = s.dc := rfl
@[simp] theorem drive_cs_to_rst (l : ChipSelect) (s : State) : (drive (.cs l) s).rst = s.rst := rfl
@[simp] theorem drive_cs_to_bl (l : ChipSelect) (s : State) : (drive (.cs l) s).bl = s.bl := rfl
@[simp] theorem drive_cs_to_batch (l : ChipSelect) (s : State) : (drive (.cs l) s).batch = s.batch := rfl
@[simp] theorem drive_cs_to_seqState (l : ChipSelect) (s : State) : (drive (.cs l) s).seqState = s.seqState := rfl
@[simp] theorem drive_cs_to_seqRemaining (l : ChipSelect) (s : State) : (drive (.cs l) s).seqRemaining = s.seqRemaining := rfl
@[simp] theorem drive_cs_to_seqIndex (l : ChipSelect) (s : State) : (drive (.cs l) s).seqIndex = s.seqIndex := rfl
@[simp] theorem drive_cs_to_latch (l : ChipSelect) (s : State) : (drive (.cs l) s).latch = s.latch := rfl
@[simp] theorem drive_cs_to_mainLine (l : ChipSelect) (s : State) : (drive (.cs l) s).mainLine = s.mainLine := rfl
@[simp] theorem drive_cs_to_trace (l : ChipSelect) (s : State) : (drive (.cs l) s).trace = s.trace ++ [.cs l] := rfl
@[simp] theorem drive_cs_to_responses (l : ChipSelect) (s : State) : (drive (.cs l) s).responses = s.responses := rfl
@[simp] theorem drive_cs_to_mem (l : ChipSelect) (s : State) : (drive (.cs l) s).mem = s.mem := rfl
@[simp] theorem drive_cs_to_inputs (l : ChipSelect) (s : State) : (drive (.cs l) s).inputs = s.inputs := rfl
@[simp] theorem drive_cs_to_freeIndex (l : ChipSelect) (s : State) : (drive (.cs l) s).freeIndex = s.freeIndex := rfl

@[simp] theorem drive_dc_to_cfg (l : Tag) (s : State) : (drive (.dc l) s).cfg = s.cfg := rfl
@[simp] theorem drive_dc_to_phase (l : Tag) (s : State) : (drive (.dc l) s).phase = s.phase := rfl
@[simp] theorem drive_dc_to_width (l : Tag) (s : State) : (drive (.dc l) s).width = s.width := rfl
@[simp] theorem drive_dc_to_height (l : Tag) (s : State) : (drive (.dc l) s).height = s.height := rfl
@[simp] theorem drive_dc_to_rotation (l : Tag) (s : State) : (drive (.dc l) s).rotation = s.rotation := rfl
@[simp] theorem drive_dc_to_partialOn (l : Tag) (s : State) : (drive (.dc l) s).partialOn = s.partialOn := rfl
@[simp] theorem drive_dc_to_partY0 (l : Tag) (s : State) : (drive (.dc l) s).partY0 = s.partY0 := rfl
@[simp] theorem drive_dc_to_partY1 (l : Tag) (s : State) : (drive (.dc l) s).partY1 = s.partY1 := rfl
@[simp] theorem drive_dc_to_xfer (l : Tag) (s : State) : (drive (.dc l) s).xfer = s.xfer := rfl
@[simp] theorem drive_dc_to_dmaClaimed (l : Tag) (s : State) : (drive (.dc l) s).dmaClaimed = s.dmaClaimed := rfl
@[simp] theorem drive_dc_to_dmaPtr (l : Tag) (s : State) : (drive (.dc l) s).dmaPtr = s.dmaPtr := rfl
@[simp] theorem drive_dc_to_dmaLen (l : Tag) (s : State) : (drive (.dc l) s).dmaLen = s.dmaLen := rfl
@[simp] theorem drive_dc_to_dmaPos (l : Tag) (s : State) : (drive (.dc l) s).dmaPos = s.dmaPos := rfl
@[simp] theorem drive_dc_to_irqPending (l : Tag) (s : State) : (drive (.dc l) s).irqPending = s.irqPending := rfl
@[simp] theorem drive_dc_to_cs (l : Tag) (s : State) : (drive (.dc l) s).cs = s.cs := rfl
@[simp] theorem drive_dc_to_dc (l : Tag) (s : State) : (drive (.dc l) s).dc = l := rfl
@[simp] theorem drive_dc_to_rst (l : Tag) (s : State) : (drive (.dc l) s).rst = s.rst := rfl
@[simp] theorem drive_dc_to_bl (l : Tag) (s : State) : (drive (.dc l) s).bl = s.bl := rfl
@[simp] theorem drive_dc_to_batch (l : Tag) (s : State) : (drive (.dc l) s).batch = s.batch := rfl
@[simp] theorem drive_dc_to_seqState (l : Tag) (s : State) : (drive (.dc l) s).seqState = s.seqState := rfl
@[simp] theorem drive_dc_to_seqRemaining (l : Tag) (s : State) : (drive (.dc l) s).seqRemaining = s.seqRemaining := rfl
@[simp] theorem drive_dc_to_seqIndex (l : Tag) (s : State) : (drive (.dc l) s).seqIndex = s.seqIndex := rfl
@[simp] theorem drive_dc_to_latch (l : Tag) (s : State) : (drive (.dc l) s).latch = s.latch := rfl
@[simp] theorem drive_dc_to_mainLine (l : Tag) (s : State) : (drive (.dc l) s).mainLine = s.mainLine := rfl
@[simp] theorem drive_dc_to_trace (l : Tag) (s : State) : (drive (.dc l) s).trace = s.trace ++ [.dc l] := rfl
@[simp] theorem drive_dc_to_responses (l : Tag) (s : State) : (drive (.dc l) s).responses = s.responses := rfl
@[simp] theorem drive_dc_to_mem (l : Tag) (s : State) : (drive (.dc l) s).mem = s.mem := rfl
@[simp] theorem drive_dc_to_inputs (l : Tag) (s : State) : (drive (.dc l) s).inputs = s.inputs := rfl
@[simp] theorem drive_dc_to_freeIndex (l : Tag) (s : State) : (drive (.dc l) s).freeIndex = s.freeIndex := rfl

@[simp] theorem drive_rst_to_cfg (l : Level) (s : State) : (drive (.rst l) s).cfg = s.cfg := rfl
@[simp] theorem drive_rst_to_phase (l : Level) (s : State) : (drive (.rst l) s).phase = s.phase := rfl
@[simp] theorem drive_rst_to_width (l : Level) (s : State) : (drive (.rst l) s).width = s.width := rfl
@[simp] theorem drive_rst_to_height (l : Level) (s : State) : (drive (.rst l) s).height = s.height := rfl
@[simp] theorem drive_rst_to_rotation (l : Level) (s : State) : (drive (.rst l) s).rotation = s.rotation := rfl
@[simp] theorem drive_rst_to_partialOn (l : Level) (s : State) : (drive (.rst l) s).partialOn = s.partialOn := rfl
@[simp] theorem drive_rst_to_partY0 (l : Level) (s : State) : (drive (.rst l) s).partY0 = s.partY0 := rfl
@[simp] theorem drive_rst_to_partY1 (l : Level) (s : State) : (drive (.rst l) s).partY1 = s.partY1 := rfl
@[simp] theorem drive_rst_to_xfer (l : Level) (s : State) : (drive (.rst l) s).xfer = s.xfer := rfl
@[simp] theorem drive_rst_to_dmaClaimed (l : Level) (s : State) : (drive (.rst l) s).dmaClaimed = s.dmaClaimed := rfl
@[simp] theorem drive_rst_to_dmaPtr (l : Level) (s : State) : (drive (.rst l) s).dmaPtr = s.dmaPtr := rfl
@[simp] theorem drive_rst_to_dmaLen (l : Level) (s : State) : (drive (.rst l) s).dmaLen = s.dmaLen := rfl
@[simp] theorem drive_rst_to_dmaPos (l : Level) (s : State) : (drive (.rst l) s).dmaPos = s.dmaPos := rfl
@[simp] theorem drive_rst_to_irqPending (l : Level) (s : State) : (drive (.rst l) s).irqPending = s.irqPending := rfl
@[simp] theorem drive_rst_to_cs (l : Level) (s : State) : (drive (.rst l) s).cs = s.cs := rfl
@[simp] theorem drive_rst_to_dc (l : Level) (s : State) : (drive (.rst l) s).dc = s.dc := rfl
@[simp] theorem drive_rst_to_rst (l : Level) (s : State) : (drive (.rst l) s).rst = l := rfl
@[simp] theorem drive_rst_to_bl (l : Level) (s : State) : (drive (.rst l) s).bl = s.bl := rfl
@[simp] theorem drive_rst_to_batch (l : Level) (s : State) : (drive (.rst l) s).batch = s.batch := rfl
@[simp] theorem drive_rst_to_seqState (l : Level) (s : State) : (drive (.rst l) s).seqState = s.seqState := rfl
@[simp] theorem drive_rst_to_seqRemaining (l : Level) (s : State) : (drive (.rst l) s).seqRemaining = s.seqRemaining := rfl
@[simp] theorem drive_rst_to_seqIndex (l : Level) (s : State) : (drive (.rst l) s).seqIndex = s.seqIndex := rfl
@[simp] theorem drive_rst_to_latch (l : Level) (s : State) : (drive (.rst l) s).latch = s.latch := rfl
@[simp] theorem drive_rst_to_mainLine (l : Level) (s : State) : (drive (.rst l) s).mainLine = s.mainLine := rfl
@[simp] theorem drive_rst_to_trace (l : Level) (s : State) : (drive (.rst l) s).trace = s.trace ++ [.rst l] := rfl
@[simp] theorem drive_rst_to_responses (l : Level) (s : State) : (drive (.rst l) s).responses = s.responses := rfl
@[simp] theorem drive_rst_to_mem (l : Level) (s : State) : (drive (.rst l) s).mem = s.mem := rfl
@[simp] theorem drive_rst_to_inputs (l : Level) (s : State) : (drive (.rst l) s).inputs = s.inputs := rfl
@[simp] theorem drive_rst_to_freeIndex (l : Level) (s : State) : (drive (.rst l) s).freeIndex = s.freeIndex := rfl

@[simp] theorem drive_bl_to_cfg (l : Byte) (s : State) : (drive (.bl l) s).cfg = s.cfg := rfl
@[simp] theorem drive_bl_to_phase (l : Byte) (s : State) : (drive (.bl l) s).phase = s.phase := rfl
@[simp] theorem drive_bl_to_width (l : Byte) (s : State) : (drive (.bl l) s).width = s.width := rfl
@[simp] theorem drive_bl_to_height (l : Byte) (s : State) : (drive (.bl l) s).height = s.height := rfl
@[simp] theorem drive_bl_to_rotation (l : Byte) (s : State) : (drive (.bl l) s).rotation = s.rotation := rfl
@[simp] theorem drive_bl_to_partialOn (l : Byte) (s : State) : (drive (.bl l) s).partialOn = s.partialOn := rfl
@[simp] theorem drive_bl_to_partY0 (l : Byte) (s : State) : (drive (.bl l) s).partY0 = s.partY0 := rfl
@[simp] theorem drive_bl_to_partY1 (l : Byte) (s : State) : (drive (.bl l) s).partY1 = s.partY1 := rfl
@[simp] theorem drive_bl_to_xfer (l : Byte) (s : State) : (drive (.bl l) s).xfer = s.xfer := rfl
@[simp] theorem drive_bl_to_dmaClaimed (l : Byte) (s : State) : (drive (.bl l) s).dmaClaimed = s.dmaClaimed := rfl
@[simp] theorem drive_bl_to_dmaPtr (l : Byte) (s : State) : (drive (.bl l) s).dmaPtr = s.dmaPtr := rfl
@[simp] theorem drive_bl_to_dmaLen (l : Byte) (s : State) : (drive (.bl l) s).dmaLen = s.dmaLen := rfl
@[simp] theorem drive_bl_to_dmaPos (l : Byte) (s : State) : (drive (.bl l) s).dmaPos = s.dmaPos := rfl
@[simp] theorem drive_bl_to_irqPending (l : Byte) (s : State) : (drive (.bl l) s).irqPending = s.irqPending := rfl
@[simp] theorem drive_bl_to_cs (l : Byte) (s : State) : (drive (.bl l) s).cs = s.cs := rfl
@[simp] theorem drive_bl_to_dc (l : Byte) (s : State) : (drive (.bl l) s).dc = s.dc := rfl
@[simp] theorem drive_bl_to_rst (l : Byte) (s : State) : (drive (.bl l) s).rst = s.rst := rfl
@[simp] theorem drive_bl_to_bl (l : Byte) (s : State) : (drive (.bl l) s).bl = l := rfl
@[simp] theorem drive_bl_to_batch (l : Byte) (s : State) : (drive (.bl l) s).batch = s.batch := rfl
@[simp] theorem drive_bl_to_seqState (l : Byte) (s : State) : (drive (.bl l) s).seqState = s.seqState := rfl
@[simp] theorem drive_bl_to_seqRemaining (l : Byte) (s : State) : (drive (.bl l) s).seqRemaining = s.seqRemaining := rfl
@[simp] theorem drive_bl_to_seqIndex (l : Byte) (s : State) : (drive (.bl l) s).seqIndex = s.seqIndex := rfl
@[simp] theorem drive_bl_to_latch (l : Byte) (s : State) : (drive (.bl l) s).latch = s.latch := rfl
@[simp] theorem drive_bl_to_mainLine (l : Byte) (s : State) : (drive (.bl l) s).mainLine = s.mainLine := rfl
@[simp] theorem drive_bl_to_trace (l : Byte) (s : State) : (drive (.bl l) s).trace = s.trace ++ [.bl l] := rfl
@[simp] theorem drive_bl_to_responses (l : Byte) (s : State) : (drive (.bl l) s).responses = s.responses := rfl
@[simp] theorem drive_bl_to_mem (l : Byte) (s : State) : (drive (.bl l) s).mem = s.mem := rfl
@[simp] theorem drive_bl_to_inputs (l : Byte) (s : State) : (drive (.bl l) s).inputs = s.inputs := rfl
@[simp] theorem drive_bl_to_freeIndex (l : Byte) (s : State) : (drive (.bl l) s).freeIndex = s.freeIndex := rfl

@[simp] theorem drive_tx_to_cfg (b : Byte) (s : State) : (drive (.tx b) s).cfg = s.cfg := rfl
@[simp] theorem drive_tx_to_phase (b : Byte) (s : State) : (drive (.tx b) s).phase = s.phase := rfl
@[simp] theorem drive_tx_to_width (b : Byte) (s : State) : (drive (.tx b) s).width = s.width := rfl
@[simp] theorem drive_tx_to_height (b : Byte) (s : State) : (drive (.tx b) s).height = s.height := rfl
@[simp] theorem drive_tx_to_rotation (b : Byte) (s : State) : (drive (.tx b) s).rotation = s.rotation := rfl
@[simp] theorem drive_tx_to_partialOn (b : Byte) (s : State) : (drive (.tx b) s).partialOn = s.partialOn := rfl
@[simp] theorem drive_tx_to_partY0 (b : Byte) (s : State) : (drive (.tx b) s).partY0 = s.partY0 := rfl
@[simp] theorem drive_tx_to_partY1 (b : Byte) (s : State) : (drive (.tx b) s).partY1 = s.partY1 := rfl
@[simp] theorem drive_tx_to_xfer (b : Byte) (s : State) : (drive (.tx b) s).xfer = s.xfer := rfl
@[simp] theorem drive_tx_to_dmaClaimed (b : Byte) (s : State) : (drive (.tx b) s).dmaClaimed = s.dmaClaimed := rfl
@[simp] theorem drive_tx_to_dmaPtr (b : Byte) (s : State) : (drive (.tx b) s).dmaPtr = s.dmaPtr := rfl
@[simp] theorem drive_tx_to_dmaLen (b : Byte) (s : State) : (drive (.tx b) s).dmaLen = s.dmaLen := rfl
@[simp] theorem drive_tx_to_dmaPos (b : Byte) (s : State) : (drive (.tx b) s).dmaPos = s.dmaPos := rfl
@[simp] theorem drive_tx_to_irqPending (b : Byte) (s : State) : (drive (.tx b) s).irqPending = s.irqPending := rfl
@[simp] theorem drive_tx_to_cs (b : Byte) (s : State) : (drive (.tx b) s).cs = s.cs := rfl
@[simp] theorem drive_tx_to_dc (b : Byte) (s : State) : (drive (.tx b) s).dc = s.dc := rfl
@[simp] theorem drive_tx_to_rst (b : Byte) (s : State) : (drive (.tx b) s).rst = s.rst := rfl
@[simp] theorem drive_tx_to_bl (b : Byte) (s : State) : (drive (.tx b) s).bl = s.bl := rfl
@[simp] theorem drive_tx_to_batch (b : Byte) (s : State) : (drive (.tx b) s).batch = s.batch := rfl
@[simp] theorem drive_tx_to_seqState (b : Byte) (s : State) : (drive (.tx b) s).seqState = s.seqState := rfl
@[simp] theorem drive_tx_to_seqRemaining (b : Byte) (s : State) : (drive (.tx b) s).seqRemaining = s.seqRemaining := rfl
@[simp] theorem drive_tx_to_seqIndex (b : Byte) (s : State) : (drive (.tx b) s).seqIndex = s.seqIndex := rfl
@[simp] theorem drive_tx_to_latch (b : Byte) (s : State) : (drive (.tx b) s).latch = s.latch := rfl
@[simp] theorem drive_tx_to_mainLine (b : Byte) (s : State) : (drive (.tx b) s).mainLine = s.mainLine := rfl
@[simp] theorem drive_tx_to_trace (b : Byte) (s : State) : (drive (.tx b) s).trace = s.trace ++ [.tx b] := rfl
@[simp] theorem drive_tx_to_responses (b : Byte) (s : State) : (drive (.tx b) s).responses = s.responses := rfl
@[simp] theorem drive_tx_to_mem (b : Byte) (s : State) : (drive (.tx b) s).mem = s.mem := rfl
@[simp] theorem drive_tx_to_inputs (b : Byte) (s : State) : (drive (.tx b) s).inputs = s.inputs := rfl
@[simp] theorem drive_tx_to_freeIndex (b : Byte) (s : State) : (drive (.tx b) s).freeIndex = s.freeIndex := rfl

@[simp] theorem drive_delay_to_cfg (n : Nat) (s : State) : (drive (.delay n) s).cfg = s.cfg := rfl
@[simp] theorem drive_delay_to_phase (n : Nat) (s : State) : (drive (.delay n) s).phase = s.phase := rfl
@[simp] theorem drive_delay_to_width (n : Nat) (s : State) : (drive (.delay n) s).width = s.width := rfl
@[simp] theorem drive_delay_to_height (n : Nat) (s : State) : (drive (.delay n) s).height = s.height := rfl
@[simp] theorem drive_delay_to_rotation (n : Nat) (s : State) : (drive (.delay n) s).rotation = s.rotation := rfl
@[simp] theorem drive_delay_to_partialOn (n : Nat) (s : State) : (drive (.delay n) s).partialOn = s.partialOn := rfl
@[simp] theorem drive_delay_to_partY0 (n : Nat) (s : State) : (drive (.delay n) s).partY0 = s.partY0 := rfl
@[simp] theorem drive_delay_to_partY1 (n : Nat) (s : State) : (drive (.delay n) s).partY1 = s.partY1 := rfl
@[simp] theorem drive_delay_to_xfer (n : Nat) (s : State) : (drive (.delay n) s).xfer = s.xfer := rfl
@[simp] theorem drive_delay_to_dmaClaimed (n : Nat) (s : State) : (drive (.delay n) s).dmaClaimed = s.dmaClaimed := rfl
@[simp] theorem drive_delay_to_dmaPtr (n : Nat) (s : State) : (drive (.delay n) s).dmaPtr = s.dmaPtr := rfl
@[simp] theorem drive_delay_to_dmaLen (n : Nat) (s : State) : (drive (.delay n) s).dmaLen = s.dmaLen := rfl
@[simp] theorem drive_delay_to_dmaPos (n : Nat) (s : State) : (drive (.delay n) s).dmaPos = s.dmaPos := rfl
@[simp] theorem drive_delay_to_irqPending (n : Nat) (s : State) : (drive (.delay n) s).irqPending = s.irqPending := rfl
@[simp] theorem drive_delay_to_cs (n : Nat) (s : State) : (drive (.delay n) s).cs = s.cs := rfl
@[simp] theorem drive_delay_to_dc (n : Nat) (s : State) : (drive (.delay n) s).dc = s.dc := rfl
@[simp] theorem drive_delay_to_rst (n : Nat) (s : State) : (drive (.delay n) s).rst = s.rst := rfl
@[simp] theorem drive_delay_to_bl (n : Nat) (s : State) : (drive (.delay n) s).bl = s.bl := rfl
@[simp] theorem drive_delay_to_batch (n : Nat) (s : State) : (drive (.delay n) s).batch = s.batch := rfl
@[simp] theorem drive_delay_to_seqState (n : Nat) (s : State) : (drive (.delay n) s).seqState = s.seqState := rfl
@[simp] theorem drive_delay_to_seqRemaining (n : Nat) (s : State) : (drive (.delay n) s).seqRemaining = s.seqRemaining := rfl
@[simp] theorem drive_delay_to_seqIndex (n : Nat) (s : State) : (drive (.delay n) s).seqIndex = s.seqIndex := rfl
@[simp] theorem drive_delay_to_latch (n : Nat) (s : State) : (drive (.delay n) s).latch = s.latch := rfl
@[simp] theorem drive_delay_to_mainLine (n : Nat) (s : State) : (drive (.delay n) s).mainLine = s.mainLine := rfl
@[simp] theorem drive_delay_to_trace (n : Nat) (s : State) : (drive (.delay n) s).trace = s.trace ++ [.delay n] := rfl
@[simp] theorem drive_delay_to_responses (n : Nat) (s : State) : (drive (.delay n) s).responses = s.responses := rfl
@[simp] theorem drive_delay_to_mem (n : Nat) (s : State) : (drive (.delay n) s).mem = s.mem := rfl
@[simp] theorem drive_delay_to_inputs (n : Nat) (s : State) : (drive (.delay n) s).inputs = s.inputs := rfl
@[simp] theorem drive_delay_to_freeIndex (n : Nat) (s : State) : (drive (.delay n) s).freeIndex = s.freeIndex := rfl

@[simp] theorem endSequence_cfg (s : State) : (endSequence s).cfg = s.cfg := rfl
@[simp] theorem endSequence_phase (s : State) : (endSequence s).phase = s.phase := rfl
@[simp] theorem endSequence_width (s : State) : (endSequence s).width = s.width := rfl
@[simp] theorem endSequence_height (s : State) : (endSequence s).height = s.height := rfl
@[simp] theorem endSequence_rotation (s : State) : (endSequence s).rotation = s.rotation := rfl
@[simp] theorem endSequence_partialOn (s : State) : (endSequence s).partialOn = s.partialOn := rfl
@[simp] theorem endSequence_partY0 (s : State) : (endSequence s).partY0 = s.partY0 := rfl
@[simp] theorem endSequence_partY1 (s : State) : (endSequence s).partY1 = s.partY1 := rfl
@[simp] theorem endSequence_xfer (s : State) : (endSequence s).xfer = s.xfer := rfl
@[simp] theorem endSequence_dmaClaimed (s : State) : (endSequence s).dmaClaimed = s.dmaClaimed := rfl
@[simp] theorem endSequence_dmaPtr (s : State) : (endSequence s).dmaPtr = s.dmaPtr := rfl
@[simp] theorem endSequence_dmaLen (s : State) : (endSequence s).dmaLen = s.dmaLen := rfl
@[simp] theorem endSequence_dmaPos (s : State) : (endSequence s).dmaPos = s.dmaPos := rfl
@[simp] theorem endSequence_irqPending (s : State) : (endSequence s).irqPending = s.irqPending := rfl
@[simp] theorem endSequence_cs (s : State) : (endSequence s).cs = s.cs := rfl
@[simp] theorem endSequence_dc (s : State) : (endSequence s).dc = s.dc := rfl
@[simp] theorem endSequence_rst (s : State) : (endSequence s).rst = s.rst := rfl
@[simp] theorem endSequence_bl (s : State) : (endSequence s).bl = s.bl := rfl
@[simp] theorem endSequence_batch (s : State) : (endSequence s).batch = s.batch := rfl
@[simp] theorem endSequence_seqState (s : State) : (endSequence s).seqState = .seqIdle := rfl
@[simp] theorem endSequence_seqRemaining (s : State) : (endSequence s).seqRemaining = s.seqRemaining := rfl
@[simp] theorem endSequence_seqIndex (s : State) : (endSequence s).seqIndex = s.seqIndex := rfl
@[simp] theorem endSequence_latch (s : State) : (endSequence s).latch = s.latch := rfl
@[simp] theorem endSequence_mainLine (s : State) : (endSequence s).mainLine = s.mainLine := rfl
@[simp] theorem endSequence_trace (s : State) : (endSequence s).trace = s.trace := rfl
@[simp] theorem endSequence_responses (s : State) : (endSequence s).responses = s.responses := rfl
@[simp] theorem endSequence_mem (s : State) : (endSequence s).mem = s.mem := rfl
@[simp] theorem endSequence_inputs (s : State) : (endSequence s).inputs = s.inputs := rfl
@[simp] theorem endSequence_freeIndex (s : State) : (endSequence s).freeIndex = s.freeIndex := rfl

@[simp] theorem enterSeq_cfg (q : SeqState) (s : State) : (enterSeq q s).cfg = s.cfg := rfl
@[simp] theorem enterSeq_phase (q : SeqState) (s : State) : (enterSeq q s).phase = s.phase := rfl
@[simp] theorem enterSeq_width (q : SeqState) (s : State) : (enterSeq q s).width = s.width := rfl
@[simp] theorem enterSeq_height (q : SeqState) (s : State) : (enterSeq q s).height = s.height := rfl
@[simp] theorem enterSeq_rotation (q : SeqState) (s : State) : (enterSeq q s).rotation = s.rotation := rfl
@[simp] theorem enterSeq_partialOn (q : SeqState) (s : State) : (enterSeq q s).partialOn = s.partialOn := rfl
@[simp] theorem enterSeq_partY0 (q : SeqState) (s : State) : (enterSeq q s).partY0 = s.partY0 := rfl
@[simp] theorem enterSeq_partY1 (q : SeqState) (s : State) : (enterSeq q s).partY1 = s.partY1 := rfl
@[simp] theorem enterSeq_xfer (q : SeqState) (s : State) : (enterSeq q s).xfer = s.xfer := rfl
@[simp] theorem enterSeq_dmaClaimed (q : SeqState) (s : State) : (enterSeq q s).dmaClaimed = s.dmaClaimed := rfl
@[simp] theorem enterSeq_dmaPtr (q : SeqState) (s : State) : (enterSeq q s).dmaPtr = s.dmaPtr := rfl
@[simp] theorem enterSeq_dmaLen (q : SeqState) (s : State) : (enterSeq q s).dmaLen = s.dmaLen := rfl
@[simp] theorem enterSeq_dmaPos (q : SeqState) (s : State) : (enterSeq q s).dmaPos = s.dmaPos := rfl
@[simp] theorem enterSeq_irqPending (q : SeqState) (s : State) : (enterSeq q s).irqPending = s.irqPending := rfl
@[simp] theorem enterSeq_cs (q : SeqState) (s : State) : (enterSeq q s).cs = s.cs := rfl
@[simp] theorem enterSeq_dc (q : SeqState) (s : State) : (enterSeq q s).dc = s.dc := rfl
@[simp] theorem enterSeq_rst (q : SeqState) (s : State) : (enterSeq q s).rst = s.rst := rfl
@[simp] theorem enterSeq_bl (q : SeqState) (s : State) : (enterSeq q s).bl = s.bl := rfl
@[simp] theorem enterSeq_batch (q : SeqState) (s : State) : (enterSeq q s).batch = s.batch := rfl
@[simp] theorem enterSeq_seqState (q : SeqState) (s : State) : (enterSeq q s).seqState = q := rfl
@[simp] theorem enterSeq_seqRemaining (q : SeqState) (s : State) : (enterSeq q s).seqRemaining = s.seqRemaining := rfl
@[simp] theorem enterSeq_seqIndex (q : SeqState) (s : State) : (enterSeq q s).seqIndex = s.seqIndex := rfl
@[simp] theorem enterSeq_latch (q : SeqState) (s : State) : (enterSeq q s).latch = s.latch := rfl
@[simp] theorem enterSeq_mainLine (q : SeqState) (s : State) : (enterSeq q s).mainLine = s.mainLine := rfl
@[simp] theorem enterSeq_trace (q : SeqState) (s : State) : (enterSeq q s).trace = s.trace := rfl
@[simp] theorem enterSeq_responses (q : SeqState) (s : State) : (enterSeq q s).responses = s.responses := rfl
@[simp] theorem enterSeq_mem (q : SeqState) (s : State) : (enterSeq q s).mem = s.mem := rfl
@[simp] theorem enterSeq_inputs (q : SeqState) (s : State) : (enterSeq q s).inputs = s.inputs := rfl
@[simp] theorem enterSeq_freeIndex (q : SeqState) (s : State) : (enterSeq q s).freeIndex = s.freeIndex := rfl

@[simp] theorem setRemaining_cfg (n : Nat) (s : State) : (setRemaining n s).cfg = s.cfg := rfl
@[simp] theorem setRemaining_phase (n : Nat) (s : State) : (setRemaining n s).phase = s.phase := rfl
@[simp] theorem setRemaining_width (n : Nat) (s : State) : (setRemaining n s).width = s.width := rfl
@[simp] theorem setRemaining_height (n : Nat) (s : State) : (setRemaining n s).height = s.height := rfl
@[simp] theorem setRemaining_rotation (n : Nat) (s : State) : (setRemaining n s).rotation = s.rotation := rfl
@[simp] theorem setRemaining_partialOn (n : Nat) (s : State) : (setRemaining n s).partialOn = s.partialOn := rfl
@[simp] theorem setRemaining_partY0 (n : Nat) (s : State) : (setRemaining n s).partY0 = s.partY0 := rfl
@[simp] theorem setRemaining_partY1 (n : Nat) (s : State) : (setRemaining n s).partY1 = s.partY1 := rfl
@[simp] theorem setRemaining_xfer (n : Nat) (s : State) : (setRemaining n s).xfer = s.xfer := rfl
@[simp] theorem setRemaining_dmaClaimed (n : Nat) (s : State) : (setRemaining n s).dmaClaimed = s.dmaClaimed := rfl
@[simp] theorem setRemaining_dmaPtr (n : Nat) (s : State) : (setRemaining n s).dmaPtr = s.dmaPtr := rfl
@[simp] theorem setRemaining_dmaLen (n : Nat) (s : State) : (setRemaining n s).dmaLen = s.dmaLen := rfl
@[simp] theorem setRemaining_dmaPos (n : Nat) (s : State) : (setRemaining n s).dmaPos = s.dmaPos := rfl
@[simp] theorem setRemaining_irqPending (n : Nat) (s : State) : (setRemaining n s).irqPending = s.irqPending := rfl
@[simp] theorem setRemaining_cs (n : Nat) (s : State) : (setRemaining n s).cs = s.cs := rfl
@[simp] theorem setRemaining_dc (n : Nat) (s : State) : (setRemaining n s).dc = s.dc := rfl
@[simp] theorem setRemaining_rst (n : Nat) (s : State) : (setRemaining n s).rst = s.rst := rfl
@[simp] theorem setRemaining_bl (n : Nat) (s : State) : (setRemaining n s).bl = s.bl := rfl
@[simp] theorem setRemaining_batch (n : Nat) (s : State) : (setRemaining n s).batch = s.batch := rfl
@[simp] theorem setRemaining_seqState (n : Nat) (s : State) : (setRemaining n s).seqState = s.seqState := rfl
@[simp] theorem setRemaining_seqRemaining (n : Nat) (s : State) : (setRemaining n s).seqRemaining = BitVec.ofNat 32 n := rfl
@[simp] theorem setRemaining_seqIndex (n : Nat) (s : State) : (setRemaining n s).seqIndex = s.seqIndex := rfl
@[simp] theorem setRemaining_latch (n : Nat) (s : State) : (setRemaining n s).latch = s.latch := rfl
@[simp] theorem setRemaining_mainLine (n : Nat) (s : State) : (setRemaining n s).mainLine = s.mainLine := rfl
@[simp] theorem setRemaining_trace (n : Nat) (s : State) : (setRemaining n s).trace = s.trace := rfl
@[simp] theorem setRemaining_responses (n : Nat) (s : State) : (setRemaining n s).responses = s.responses := rfl
@[simp] theorem setRemaining_mem (n : Nat) (s : State) : (setRemaining n s).mem = s.mem := rfl
@[simp] theorem setRemaining_inputs (n : Nat) (s : State) : (setRemaining n s).inputs = s.inputs := rfl
@[simp] theorem setRemaining_freeIndex (n : Nat) (s : State) : (setRemaining n s).freeIndex = s.freeIndex := rfl

@[simp] theorem setIndex_cfg (n : Nat) (s : State) : (setIndex n s).cfg = s.cfg := rfl
@[simp] theorem setIndex_phase (n : Nat) (s : State) : (setIndex n s).phase = s.phase := rfl
@[simp] theorem setIndex_width (n : Nat) (s : State) : (setIndex n s).width = s.width := rfl
@[simp] theorem setIndex_height (n : Nat) (s : State) : (setIndex n s).height = s.height := rfl
@[simp] theorem setIndex_rotation (n : Nat) (s : State) : (setIndex n s).rotation = s.rotation := rfl
@[simp] theorem setIndex_partialOn (n : Nat) (s : State) : (setIndex n s).partialOn = s.partialOn := rfl
@[simp] theorem setIndex_partY0 (n : Nat) (s : State) : (setIndex n s).partY0 = s.partY0 := rfl
@[simp] theorem setIndex_partY1 (n : Nat) (s : State) : (setIndex n s).partY1 = s.partY1 := rfl
@[simp] theorem setIndex_xfer (n : Nat) (s : State) : (setIndex n s).xfer = s.xfer := rfl
@[simp] theorem setIndex_dmaClaimed (n : Nat) (s : State) : (setIndex n s).dmaClaimed = s.dmaClaimed := rfl
@[simp] theorem setIndex_dmaPtr (n : Nat) (s : State) : (setIndex n s).dmaPtr = s.dmaPtr := rfl
@[simp] theorem setIndex_dmaLen (n : Nat) (s : State) : (setIndex n s).dmaLen = s.dmaLen := rfl
@[simp] theorem setIndex_dmaPos (n : Nat) (s : State) : (setIndex n s).dmaPos = s.dmaPos := rfl
@[simp] theorem setIndex_irqPending (n : Nat) (s : State) : (setIndex n s).irqPending = s.irqPending := rfl
@[simp] theorem setIndex_cs (n : Nat) (s : State) : (setIndex n s).cs = s.cs := rfl
@[simp] theorem setIndex_dc (n : Nat) (s : State) : (setIndex n s).dc = s.dc := rfl
@[simp] theorem setIndex_rst (n : Nat) (s : State) : (setIndex n s).rst = s.rst := rfl
@[simp] theorem setIndex_bl (n : Nat) (s : State) : (setIndex n s).bl = s.bl := rfl
@[simp] theorem setIndex_batch (n : Nat) (s : State) : (setIndex n s).batch = s.batch := rfl
@[simp] theorem setIndex_seqState (n : Nat) (s : State) : (setIndex n s).seqState = s.seqState := rfl
@[simp] theorem setIndex_seqRemaining (n : Nat) (s : State) : (setIndex n s).seqRemaining = s.seqRemaining := rfl
@[simp] theorem setIndex_seqIndex (n : Nat) (s : State) : (setIndex n s).seqIndex = BitVec.ofNat 32 n := rfl
@[simp] theorem setIndex_latch (n : Nat) (s : State) : (setIndex n s).latch = s.latch := rfl
@[simp] theorem setIndex_mainLine (n : Nat) (s : State) : (setIndex n s).mainLine = s.mainLine := rfl
@[simp] theorem setIndex_trace (n : Nat) (s : State) : (setIndex n s).trace = s.trace := rfl
@[simp] theorem setIndex_responses (n : Nat) (s : State) : (setIndex n s).responses = s.responses := rfl
@[simp] theorem setIndex_mem (n : Nat) (s : State) : (setIndex n s).mem = s.mem := rfl
@[simp] theorem setIndex_inputs (n : Nat) (s : State) : (setIndex n s).inputs = s.inputs := rfl
@[simp] theorem setIndex_freeIndex (n : Nat) (s : State) : (setIndex n s).freeIndex = s.freeIndex := rfl

end Sys2Proof.Machine
end

