-- ==== Sys2Proof/Laws/Ops.lean ====
section
/-! SUPPORT. One lemma per shared operation that says everything it can do: the framing procedures, the window, the
batch sequencer, the arming of a transfer. Each answers `busConflict` off idle; the lemmas give the state on idle. -/

namespace Sys2Proof.Machine

/-- The state after events that end with chip-select released and the data/command line at `t`. -/
def onWire (es : List Event) (t : Tag) (s : State) : State :=
  { s with trace := s.trace ++ es, cs := .released, dc := t }

@[simp] theorem onWire_xfer (es : List Event) (t : Tag) (s : State) : (onWire es t s).xfer = s.xfer := rfl
@[simp] theorem onWire_cfg (es : List Event) (t : Tag) (s : State) : (onWire es t s).cfg = s.cfg := rfl
@[simp] theorem onWire_batch (es : List Event) (t : Tag) (s : State) : (onWire es t s).batch = s.batch := rfl
@[simp] theorem onWire_mem (es : List Event) (t : Tag) (s : State) : (onWire es t s).mem = s.mem := rfl

@[simp] theorem onWire_onWire (es es' : List Event) (t t' : Tag) (s : State) :
    onWire es' t' (onWire es t s) = onWire (es ++ es') t' s := by
  simp [onWire]

theorem foldl_setPin_tx (bytes : List Byte) (s : State) : (bytes.map Event.tx).foldl setPin s = s := by
  induction bytes with
  | nil => rfl
  | cons b bytes ih => simpa [setPin] using ih

theorem driveAll_frameEvents (t : Tag) (bytes : List Byte) (s : State) :
    driveAll (frameEvents t bytes) s = onWire (frameEvents t bytes) t s := by
  simp only [driveAll, frameEvents, onWire, List.foldl_append, List.foldl_cons, List.foldl_nil, foldl_setPin_tx]
  rfl

/-- What `Frame` does (40_transport.md R100). -/
theorem frame_eq (t : Tag) (bytes : List Byte) (s : State) :
    frame t bytes s =
      if s.xfer = .idle then .ok (onWire (frameEvents t bytes) t s) else .error .busConflict := by
  unfold frame
  rw [driveAll_frameEvents]

theorem frame_idle (t : Tag) (bytes : List Byte) {s : State} (h : s.xfer = .idle) :
    frame t bytes s = .ok (onWire (frameEvents t bytes) t s) := by
  rw [frame_eq, if_pos h]

theorem frame_busy (t : Tag) (bytes : List Byte) {s : State} (h : s.xfer ≠ .idle) :
    frame t bytes s = .error .busConflict := by
  rw [frame_eq, if_neg h]

/-- What `SendCmd` does (40_transport.md R101). -/
theorem sendCmd_idle (c : Byte) (params : List Byte) {s : State} (h : s.xfer = .idle) :
    sendCmd c params s =
      .ok (onWire (commandEvents c params) (if params = [] then .command else .data) s) := by
  unfold sendCmd commandEvents
  simp only [frame_idle _ _ h, bind, Except.bind]
  split
  · simp
  · rw [frame_idle _ _ (by simpa using h)]; simp

theorem sendCmd_busy (c : Byte) (params : List Byte) {s : State} (h : s.xfer ≠ .idle) :
    sendCmd c params s = .error .busConflict := by
  simp [sendCmd, frame_busy _ _ h, bind, Except.bind]

/-- What `EmitWindow` does (42_addressing.md R145). -/
theorem emitWindow_idle (w : Rect) {s : State} (h : s.xfer = .idle) :
    emitWindow w s = .ok (onWire (windowEvents w) .command s) := by
  unfold emitWindow
  simp only [sendCmd_idle _ _ h, bind, Except.bind]
  rw [sendCmd_idle _ _ (by simpa using h)]
  simp only []
  rw [sendCmd_idle _ _ (by simpa using h)]
  simp [windowEvents, bigEndian]

theorem emitWindow_busy (w : Rect) {s : State} (h : s.xfer ≠ .idle) :
    emitWindow w s = .error .busConflict := by
  simp [emitWindow, sendCmd_busy _ _ h, bind, Except.bind]

/-- What the reset pulse does (40_transport.md R106). -/
theorem resetPulse_idle {s : State} (h : s.xfer = .idle) :
    resetPulse s = .ok { s with trace := s.trace ++ resetPulseEvents s.cfg, rst := .high } := by
  simp [resetPulse, h, driveAll, resetPulseEvents, setPin]

/-- Cutting a buffer into pieces loses and moves no byte (40_transport.md R105). -/
theorem piecesFrom_flatten {chunk : Nat} (hc : 0 < chunk) (fuel : Nat) (bytes : List Byte)
    (h : bytes.length ≤ fuel) : (piecesFrom chunk fuel bytes).flatten = bytes := by
  induction fuel generalizing bytes with
  | zero => simp_all [piecesFrom]
  | succ fuel ih =>
    cases bytes with
    | nil => rfl
    | cons b bytes =>
      rw [piecesFrom, List.flatten_cons, ih, List.take_append_drop]
      simp only [List.length_drop, List.length_cons] at h ⊢
      omega

@[simp] theorem pieces_flatten (chunk : Nat) (bytes : List Byte) : (pieces chunk bytes).flatten = bytes := by
  unfold pieces
  split
  · simp
  · exact piecesFrom_flatten (by omega) _ _ le_rfl

@[simp] theorem bufferFrame_eq_frame (bytes : List Byte) (s : State) :
    bufferFrame bytes s = frame .data bytes s := by
  simp [bufferFrame]

/-- A window outside the check, or one inside it: what `WindowCheck` can answer (42_addressing.md R144). -/
theorem windowCheck_eq_some {s : State} {x0 y0 x1 y1 : Half} {w : Rect} :
    windowCheck s x0 y0 x1 y1 = some w ↔
      w = Rect.ofCorners x0 y0 x1 y1 ∧ w.a1 < s.width ∧ w.b1 < s.height ∧
        (s.partialOn = true → s.partY0 ≤ w.b0 ∧ w.b1 ≤ s.partY1) := by
  unfold windowCheck
  constructor
  · intro h
    dsimp only at h
    split at h
    · cases h
    · split at h
      · cases h
      · cases h
        refine ⟨rfl, ?_, ?_, ?_⟩ <;> simp_all
  · rintro ⟨rfl, h1, h2, h3⟩
    dsimp only
    simp only [ge_iff_le, gt_iff_lt]
    rw [if_neg, if_neg]
    · rintro ⟨hp, h | h⟩
      · exact absurd (h3 hp).1 (by simpa using h)
      · exact absurd (h3 hp).2 (by simpa using h)
    · rintro (h | h)
      · exact absurd h1 (by simpa using h)
      · exact absurd h2 (by simpa using h)

/-- The five ways `writeDataDMA` can end, in two (41_dma.md R120). -/
theorem startDma_cases (ptr len : Word) (s : State) :
    (dmaStarts ptr len s = true ∧ startDma ptr len s = (armTransfer ptr len s, true)) ∨
      (dmaStarts ptr len s = false ∧ startDma ptr len s = (s, false)) := by
  unfold startDma
  cases dmaStarts ptr len s <;> simp

/-- The state of a transfer just started (41_dma.md R120). -/
theorem armTransfer_eq (ptr len : Word) (s : State) :
    armTransfer ptr len s =
      { s with
        trace := s.trace ++ [.cs .asserted, .dc .data], cs := .asserted, dc := .data, dmaClaimed := true
        dmaPtr := ptr, dmaLen := len, dmaPos := 0, xfer := .inFlight } := by
  simp [armTransfer, drive, driveAll, setPin]

theorem dmaStarts_iff {ptr len : Word} {s : State} :
    dmaStarts ptr len s = true ↔
      s.xfer = .idle ∧ validRange s.cfg ptr len = true ∧ s.cfg.dmaCapable = true ∧
        (s.dmaClaimed = true ∨ s.cfg.dmaClaimOk = true) := by
  simp [dmaStarts, State.busy, and_assoc]

/-- The three things the agents beside the main line can do, or none (41_dma.md R123, R124, 60_exceptions.md R218). -/
theorem transferStep_cases (s : State) :
    (s.irqPending = true ∧ transferStep s = .next (takeCompletionInterrupt s)) ∨
      (s.irqPending = false ∧ s.xfer = .inFlight ∧ s.dmaPos < s.dmaLen ∧ transferStep s = dmaBeat s) ∨
      (s.irqPending = false ∧ s.xfer = .inFlight ∧ s.dmaPos = s.dmaLen ∧ transferStep s = .next (dmaDone s)) ∨
      (s.irqPending = false ∧ ¬(s.xfer = .inFlight ∧ s.dmaPos ≤ s.dmaLen) ∧ transferStep s = .next s) := by
  unfold transferStep
  by_cases h1 : s.irqPending
  · left; simp [State.irqHandlerEnabled, h1, returnFromInterrupt]
  · by_cases h2 : s.xfer = .inFlight
    · by_cases h3 : s.dmaPos < s.dmaLen
      · right; left; simp_all [State.irqHandlerEnabled, State.dmaBeatEnabled]
      · by_cases h4 : s.dmaPos = s.dmaLen
        · right; right; left
          simp_all [State.irqHandlerEnabled, State.dmaBeatEnabled, State.dmaDoneEnabled]
        · right; right; right
          have : ¬ s.dmaPos ≤ s.dmaLen := by bv_omega
          simp_all [State.irqHandlerEnabled, State.dmaBeatEnabled, State.dmaDoneEnabled]
    · right; right; right
      simp_all [State.irqHandlerEnabled, State.dmaBeatEnabled, State.dmaDoneEnabled]

/-- What a guarded operation answers (42_addressing.md R140). -/
@[simp] theorem whenReady_ready {s : State} (h : s.phase = .ready) (body : Host.Outcome State Fault Refusal) :
    whenReady s body = body := if_pos h

theorem whenReady_notReady {s : State} (h : s.phase ≠ .ready) (body : Host.Outcome State Fault Refusal) :
    whenReady s body = .fault .notReady := if_neg h

@[simp] theorem conclude_ok (v : Word) (s : State) : conclude v (.ok s) = .next (respond v s) := rfl

@[simp] theorem conclude_error (v : Word) (k : Fault) : conclude v (.error k) = .fault k := rfl

/-- The next state of an operation that concludes: its run ended well and its response was delivered. -/
theorem conclude_next {v : Word} {r : Except Fault State} {t : State} (h : conclude v r = .next t) :
    ∃ u, r = .ok u ∧ t = respond v u := by
  cases r with
  | ok u => exact ⟨u, rfl, by simpa using h.symm⟩
  | error k => cases h

/-- A guarded operation that answers a next state ran in phase `Ready`. -/
theorem whenReady_next {s t : State} {body : Host.Outcome State Fault Refusal}
    (h : whenReady s body = .next t) : s.phase = .ready ∧ body = .next t := by
  unfold whenReady at h
  split at h
  · exact ⟨‹_›, h⟩
  · cases h

/-- The bytes a run of full batches and a rest hold: the recurrence of `fillEvents` (44_drawing.md R181). -/
theorem fillEvents_step {batch n : Nat} (hb : 0 < batch) (hn : 0 < n) (p : List Byte) :
    fillEvents batch n p =
      frameEvents .data (rep (min n batch) p) ++ fillEvents batch (n - min n batch) p := by
  unfold fillEvents
  by_cases h : n < batch
  · have h1 : n / batch = 0 := Nat.div_eq_of_lt h
    have h2 : n % batch = n := Nat.mod_eq_of_lt h
    simp [h1, h2, Nat.min_eq_left h.le, Nat.pos_iff_ne_zero.mp hn]
  · have hle : batch ≤ n := by omega
    have h1 : n / batch = (n - batch) / batch + 1 := Nat.div_eq_sub_div hb hle
    have h2 : n % batch = (n - batch) % batch := Nat.mod_eq_sub_mod hle
    rw [Nat.min_eq_right hle, h1, h2, List.replicate_succ, List.flatten_cons, List.append_assoc]

@[simp] theorem fillEvents_zero (batch : Nat) (p : List Byte) : fillEvents batch 0 p = [] := by
  simp [fillEvents]

theorem rep_length {p : List Byte} (hp : p.length = 3) (n : Nat) : (rep n p).length = 3 * n := by
  simp [rep, hp, Nat.mul_comm]

theorem rep_take {p : List Byte} (hp : p.length = 3) {k n : Nat} (h : k ≤ n) (tail : List Byte) :
    (rep n p ++ tail).take (3 * k) = rep k p := by
  obtain ⟨j, rfl⟩ := Nat.exists_eq_add_of_le h
  have : rep (k + j) p = rep k p ++ rep j p := by simp [rep, ← List.replicate_append_replicate]
  rw [this, List.append_assoc, List.take_append_of_le_length (by rw [rep_length hp]),
    List.take_of_length_le (by rw [rep_length hp])]

/-- What the loop of `StreamFill` does from a primed buffer (44_drawing.md R181). -/
theorem fillLoop_idle {p : List Byte} (hp : p.length = 3) (fuel n m : Nat) (tail : List Byte) {s : State}
    (hi : s.xfer = .idle) (hb : 0 < s.cfg.batchPixels.toNat) (hn : 0 < n) (hf : n ≤ fuel)
    (hm : min n s.cfg.batchPixels.toNat ≤ m) (hbatch : s.batch = rep m p ++ tail) :
    fillLoop fuel n s =
      .ok (onWire (fillEvents s.cfg.batchPixels.toNat n p) .data (enterSeq .seqStream (setRemaining 0 s))) := by
  induction fuel generalizing n s with
  | zero => omega
  | succ fuel ih =>
    have hk : s.batch.take (3 * min n s.cfg.batchPixels.toNat) = rep (min n s.cfg.batchPixels.toNat) p := by
      rw [hbatch, rep_take hp hm]
    rw [fillLoop, if_neg (by omega), fillEvents_step hb hn]
    simp only [streamBatch, bind, Except.bind, hk]
    rw [frame_idle _ _ (by simpa using hi)]
    simp only []
    by_cases hlast : n ≤ s.cfg.batchPixels.toNat
    · rw [show n - min n s.cfg.batchPixels.toNat = 0 by omega]
      cases fuel <;> simp [fillLoop] <;> rfl
    · rw [ih (n - min n s.cfg.batchPixels.toNat) (by simpa using hi) (by simpa using hb) (by omega) (by omega)
        (by simp only [setRemaining_cfg, onWire_cfg, enterSeq_cfg]; omega) (by simpa using hbatch)]
      simp only [setRemaining_cfg, onWire_cfg, enterSeq_cfg]
      rw [← onWire_onWire _ _ .data .data]
      rfl

/-- What `StreamFill` does (44_drawing.md R181). -/
theorem streamFill_idle {p : List Byte} (hp : p.length = 3) (n : Nat) {s : State} (hi : s.xfer = .idle)
    (hb : 0 < s.cfg.batchPixels.toNat) (hn : 0 < n) :
    streamFill n p s =
      .ok (onWire (fillEvents s.cfg.batchPixels.toNat n p) .data
        (enterSeq .seqStream (setRemaining 0 (primeBatch (rep (min n s.cfg.batchPixels.toNat) p) s)))) := by
  unfold streamFill
  rw [fillLoop_idle hp n n (min n s.cfg.batchPixels.toNat) (s.batch.drop (3 * min n s.cfg.batchPixels.toNat))
    (by simpa using hi) (by simpa using hb) hn le_rfl (by simp)
    (by simp [primeBatch, rep, hp, Nat.mul_comm])]
  rfl

/-- A frame's bytes split off a stream of pixels: the recurrence of `pixelEvents` (44_drawing.md R182). -/
theorem pixelEvents_step {batch n : Nat} (hb : 0 < batch) (hn : 0 < n) (pixel : Nat → List Byte) :
    pixelEvents batch n pixel =
      frameEvents .data ((List.range (min n batch)).flatMap pixel) ++
        pixelEvents batch (n - min n batch) (fun q => pixel (min n batch + q)) := by
  unfold pixelEvents
  by_cases h : n ≤ batch
  · have h1 : (n + batch - 1) / batch = 1 := by
      rw [show n + batch - 1 = (n - 1) + batch by omega, Nat.add_div_right _ hb, Nat.div_eq_of_lt (by omega)]
    have h2 : (n - min n batch + batch - 1) / batch = 0 := Nat.div_eq_of_lt (by omega)
    rw [h1, h2]
    simp [Nat.min_comm batch n]
  · have hle : batch ≤ n := by omega
    have h1 : (n + batch - 1) / batch = (n - batch + batch - 1) / batch + 1 := by
      rw [show n + batch - 1 = (n - batch + batch - 1) + batch by omega, Nat.add_div_right _ hb]
    rw [Nat.min_eq_right hle, h1, List.range_succ_eq_map, List.flatMap_cons, List.flatMap_map]
    congr 1
    · simp [Nat.min_eq_left hle]
    · refine congrArg (List.flatMap · _) (funext fun f => ?_)
      simp only [Nat.succ_eq_add_one, Nat.add_mul, Nat.one_mul]
      rw [show n - (f * batch + batch) = n - batch - f * batch by omega]
      refine congrArg (frameEvents .data) (congrArg (List.flatMap · _) (funext fun j => ?_))
      congr 1
      omega

theorem pixelEvents_zero {batch : Nat} (hb : 0 < batch) (pixel : Nat → List Byte) :
    pixelEvents batch 0 pixel = [] := by
  rw [pixelEvents, Nat.div_eq_of_lt (by omega)]
  rfl

theorem flatMap_length_three {pixel : Nat → List Byte} (hp : ∀ q, (pixel q).length = 3) (ks : List Nat) :
    (ks.flatMap pixel).length = 3 * ks.length := by
  induction ks with
  | nil => rfl
  | cons k ks ih => simp [ih, hp]; omega

/-- One batch of pixels is prepared and streamed (44_drawing.md R182). -/
theorem streamBatch_primed {bytes : List Byte} {k : Nat} (hlen : bytes.length = 3 * k) {s : State}
    (hi : s.xfer = .idle) :
    streamBatch k (primeBatch bytes s) =
      .ok (onWire (frameEvents .data bytes) .data (enterSeq .seqStream (primeBatch bytes s))) := by
  rw [streamBatch, primeBatch_batch, List.take_append_of_le_length hlen.ge, List.take_of_length_le hlen.le]
  exact frame_idle _ _ hi

/-- The state a stream of pixels leaves: its events on the wire, the batch buffer `b` (44_drawing.md R182). -/
def streamed (es : List Event) (b : List Byte) (n : Nat) (s : State) : State :=
  onWire es .data { s with batch := b, seqState := .seqStream, seqRemaining := 0, seqIndex := BitVec.ofNat 32 n }

/-- A batch before a stream of pixels is the start of that stream (44_drawing.md R182). -/
theorem streamed_batch (es es' : List Event) (bytes b : List Byte) (n i r : Nat) (s : State) :
    streamed es' b n (setIndex i (setRemaining r
        (onWire es .data (enterSeq .seqStream (primeBatch bytes s))))) =
      streamed (es ++ es') b n s := by
  simp [streamed, onWire]

/-- What the loop of `StreamPixels` does (44_drawing.md R182). -/
theorem pixelLoop_idle {n : Nat} {pixel : Nat → List Byte} (hp : ∀ q, (pixel q).length = 3) (fuel i : Nat)
    {s : State} (hi : s.xfer = .idle) (hb : 0 < s.cfg.batchPixels.toNat) (hn : i < n) (hf : n - i ≤ fuel) :
    ∃ b, (3 * s.cfg.batchPixels.toNat ≤ s.batch.length → b.length = s.batch.length) ∧
      pixelLoop n pixel fuel i s =
        .ok (streamed (pixelEvents s.cfg.batchPixels.toNat (n - i) fun q => pixel (i + q)) b n s) := by
  induction fuel generalizing i s with
  | zero => omega
  | succ fuel ih =>
    obtain ⟨k, hk⟩ : ∃ k, k = min (n - i) s.cfg.batchPixels.toNat := ⟨_, rfl⟩
    obtain ⟨bytes, hbytes⟩ : ∃ bytes, bytes = (List.range k).flatMap fun j => pixel (i + j) := ⟨_, rfl⟩
    have hlen : bytes.length = 3 * k := by
      rw [hbytes, flatMap_length_three (fun q => hp _), List.length_range]
    have hsize : 3 * s.cfg.batchPixels.toNat ≤ s.batch.length → (primeBatch bytes s).batch.length = s.batch.length := by
      intro h; rw [primeBatch_batch, List.length_append, List.length_drop, hlen]; omega
    rw [pixelLoop, if_neg (by omega), pixelEvents_step hb (by omega)]
    simp only [← hk, ← hbytes, bind, Except.bind, streamBatch_primed hlen hi]
    by_cases hlast : n - i ≤ s.cfg.batchPixels.toNat
    · refine ⟨(primeBatch bytes s).batch, hsize, ?_⟩
      rw [show n - i - k = 0 by omega, pixelEvents_zero hb, List.append_nil, show i + k = n by omega, Nat.sub_self]
      have hend (s : State) : pixelLoop n pixel fuel n s = .ok s := by cases fuel <;> simp [pixelLoop]
      rw [hend]
      rfl
    · have step := ih (i + k)
        (s := setIndex (i + k) (setRemaining (n - (i + k))
          (onWire (frameEvents .data bytes) .data (enterSeq .seqStream (primeBatch bytes s)))))
      simp only [setIndex_xfer, setRemaining_xfer, onWire_xfer, enterSeq_xfer, primeBatch_xfer, setIndex_cfg,
        setRemaining_cfg, onWire_cfg, enterSeq_cfg, primeBatch_cfg, setIndex_batch, setRemaining_batch, onWire_batch,
        enterSeq_batch] at step
      obtain ⟨b, hlb, heq⟩ := step hi hb (by omega) (by omega)
      refine ⟨b, fun h => (hlb (h.trans (hsize h).ge)).trans (hsize h), heq.trans ?_⟩
      rw [streamed_batch, show n - (i + k) = n - i - k by omega]
      simp only [← Nat.add_assoc]

/-- The wire bytes of an array element are three (43_color.md R175). -/
@[simp] theorem pixel_length (f : ArrayFormat) (m : Memory) (base i : Nat) : (f.pixel m base i).length = 3 := by
  cases f <;> rfl

@[simp] theorem pix565_length (v : Half) : (pix565 v).length = 3 := rfl
@[simp] theorem pix888_length (c : Imm) : (pix888 c).length = 3 := rfl

/-- What `StreamPixels` does (44_drawing.md R182). -/
theorem streamPixels_idle (f : ArrayFormat) (base len : Word) {n : Nat} {s : State} (hi : s.xfer = .idle)
    (hb : 0 < s.cfg.batchPixels.toNat) (hn : 0 < n) :
    ∃ b, (3 * s.cfg.batchPixels.toNat ≤ s.batch.length → b.length = s.batch.length) ∧
      streamPixels n f base len s =
        .ok (streamed
          (pixelEvents s.cfg.batchPixels.toNat n fun q => f.pixel s.mem base.toNat (q % len.toNat)) b n s) := by
  obtain ⟨b, h1, h2⟩ := pixelLoop_idle (n := n)
    (pixel := fun q => f.pixel s.mem base.toNat (q % len.toNat)) (fun q => pixel_length _ _ _ _) n 0
    (s := setIndex 0 (setRemaining n s)) hi hb hn (by omega)
  refine ⟨b, h1, ?_⟩
  rw [streamPixels, h2]
  simp only [Nat.zero_add, Nat.sub_zero, setIndex_cfg, setRemaining_cfg]
  rfl

theorem Rect.pixels_pos (w : Rect) : 0 < w.pixels := by
  simp [Rect.pixels, Rect.columns, Rect.rows]

/-- What a solid fill of a window that passed its check does (44_drawing.md R185). -/
theorem drawWindow_fill_idle {p : List Byte} (hp : p.length = 3) (w : Rect) {s : State} (hi : s.xfer = .idle)
    (hb : 0 < s.cfg.batchPixels.toNat) :
    drawWindow w (streamFill w.pixels p) s =
      .ok (onWire (windowEvents w ++ fillEvents s.cfg.batchPixels.toNat w.pixels p) .data
        (endSequence (setRemaining 0 (primeBatch (rep (min w.pixels s.cfg.batchPixels.toNat) p) s)))) := by
  unfold drawWindow
  rw [emitWindow_idle _ (by simpa using hi)]
  simp only [bind, Except.bind]
  rw [streamFill_idle hp _ (by simpa using hi) (by simpa using hb) w.pixels_pos, ← onWire_onWire _ _ .command .data]
  rfl

/-- What a bulk write of a window that passed its check does (44_drawing.md R189, R190). -/
theorem drawWindow_pixels_idle (f : ArrayFormat) (base len : Word) (w : Rect) {s : State} (hi : s.xfer = .idle)
    (hb : 0 < s.cfg.batchPixels.toNat) :
    ∃ b, (3 * s.cfg.batchPixels.toNat ≤ s.batch.length → b.length = s.batch.length) ∧
      drawWindow w (streamPixels w.pixels f base len) s =
        .ok (endSequence (streamed (windowEvents w ++
          pixelEvents s.cfg.batchPixels.toNat w.pixels fun q => f.pixel s.mem base.toNat (q % len.toNat))
          b w.pixels s)) := by
  obtain ⟨b, h1, h2⟩ := streamPixels_idle f base len (n := w.pixels)
    (s := onWire (windowEvents w) .command (enterSeq .seqWindow s)) (by simpa using hi) (by simpa using hb)
    w.pixels_pos
  refine ⟨b, by simpa using h1, ?_⟩
  unfold drawWindow
  rw [emitWindow_idle _ (by simpa using hi)]
  simp only [bind, Except.bind]
  rw [h2]
  unfold streamed
  rw [← onWire_onWire _ _ .command .data]
  rfl

theorem drawWindow_busy (w : Rect) (stream : State → Except Fault State) {s : State} (h : s.xfer ≠ .idle) :
    drawWindow w stream s = .error .busConflict := by
  simp [drawWindow, emitWindow_busy _ (s := enterSeq .seqWindow s) h, bind, Except.bind]

end Sys2Proof.Machine
end

