-- ==== Sys2Proof/Laws/Frames.lean ====
section
/-! SUPPORT. Inversion lemmas: what an operation that went through can have done, whatever the bytes were. Every one
of them answers with frames on the wire and the registers of the sequencer, and changes nothing else. -/

namespace Sys2Proof.Machine

/-- The events of frames, one after the other (40_transport.md R100). -/
def framesEvents (fs : List (Tag × List Byte)) : List Event := fs.flatMap fun f => frameEvents f.1 f.2

@[simp] theorem framesEvents_nil : framesEvents [] = [] := rfl

@[simp] theorem framesEvents_cons (t : Tag) (bytes : List Byte) (fs : List (Tag × List Byte)) :
    framesEvents ((t, bytes) :: fs) = frameEvents t bytes ++ framesEvents fs := rfl

@[simp] theorem framesEvents_append (fs gs : List (Tag × List Byte)) :
    framesEvents (fs ++ gs) = framesEvents fs ++ framesEvents gs := by
  simp [framesEvents]

/-- A run of frames leaves any lines framed: as they were, or chip-select released under the last frame's tag. -/
theorem Lines.after_frameEvents (l : Lines) (t : Tag) (bytes : List Byte) (es : List Event) :
    l.after (frameEvents t bytes ++ es) = (⟨some .released, some t⟩ : Lines).after es := by
  have htx (l : Lines) (h : l.cs = some .asserted ∧ l.tag.isSome) (es : List Event) :
      l.after (bytes.map .tx ++ es) = l.after es := by
    induction bytes with
    | nil => rfl
    | cons b bytes ih =>
      rw [List.map_cons, List.cons_append, Lines.after]
      simp only [Lines.event, h, and_self, if_true]
      exact ih
  simp only [frameEvents, List.append_assoc, List.cons_append, List.nil_append, Lines.after, Lines.event]
  rw [htx _ (by simp)]
  rfl

theorem Lines.after_append (l : Lines) (es es' : List Event) :
    l.after (es ++ es') = (l.after es).bind fun l => l.after es' := by
  induction es generalizing l with
  | nil => rfl
  | cons e es ih =>
    rw [List.cons_append, Lines.after, Lines.after]
    cases l.event e with
    | none => rfl
    | some l => exact ih l

/-- The lines after frames: as they were if there were none, else chip-select released. -/
theorem Lines.after_frames (l : Lines) (fs : List (Tag × List Byte)) :
    ∃ l', l.after (framesEvents fs) = some l' ∧ (fs = [] → l' = l) ∧ (fs ≠ [] → l'.cs = some .released) := by
  induction fs generalizing l with
  | nil => exact ⟨l, rfl, fun _ => rfl, fun h => absurd rfl h⟩
  | cons f fs ih =>
    obtain ⟨t, bytes⟩ := f
    rw [framesEvents_cons, Lines.after_frameEvents]
    obtain ⟨l', h1, h2, h3⟩ := ih ⟨some .released, some t⟩
    refine ⟨l', h1, fun h => absurd h (by simp), fun _ => ?_⟩
    cases fs with
    | nil => rw [h2 rfl]
    | cons g gs => exact h3 (by simp)

/-- The state after frames that left the data/command line at `d`, the sequencer's registers at `q`, `r`, `i` and
the batch buffer at `b`. -/
def afterFrames (fs : List (Tag × List Byte)) (d : Tag) (b : List Byte) (q : SeqState) (r i : Word) (s : State) :
    State :=
  { s with
    trace := s.trace ++ framesEvents fs, cs := .released, dc := d
    batch := b, seqState := q, seqRemaining := r, seqIndex := i }

theorem onWire_frames (fs : List (Tag × List Byte)) (d : Tag) (s : State) :
    onWire (framesEvents fs) d s = afterFrames fs d s.batch s.seqState s.seqRemaining s.seqIndex s := rfl

@[simp] theorem afterFrames_afterFrames (fs gs : List (Tag × List Byte)) (d d' : Tag) (b b' : List Byte)
    (q q' : SeqState) (r r' i i' : Word) (s : State) :
    afterFrames gs d' b' q' r' i' (afterFrames fs d b q r i s) = afterFrames (fs ++ gs) d' b' q' r' i' s := by
  simp [afterFrames]

@[simp] theorem afterFrames_enterSeq (fs : List (Tag × List Byte)) (d : Tag) (b : List Byte) (q q' : SeqState)
    (r i : Word) (s : State) : afterFrames fs d b q r i (enterSeq q' s) = afterFrames fs d b q r i s := rfl

@[simp] theorem afterFrames_primeBatch (fs : List (Tag × List Byte)) (d : Tag) (b bytes : List Byte) (q : SeqState)
    (r i : Word) (s : State) : afterFrames fs d b q r i (primeBatch bytes s) = afterFrames fs d b q r i s := rfl

@[simp] theorem afterFrames_setRemaining (fs : List (Tag × List Byte)) (d : Tag) (b : List Byte) (q : SeqState)
    (r i : Word) (n : Nat) (s : State) :
    afterFrames fs d b q r i (setRemaining n s) = afterFrames fs d b q r i s := rfl

@[simp] theorem afterFrames_setIndex (fs : List (Tag × List Byte)) (d : Tag) (b : List Byte) (q : SeqState)
    (r i : Word) (n : Nat) (s : State) :
    afterFrames fs d b q r i (setIndex n s) = afterFrames fs d b q r i s := rfl

@[simp] theorem enterSeq_afterFrames (fs : List (Tag × List Byte)) (d : Tag) (b : List Byte) (q q' : SeqState)
    (r i : Word) (s : State) : enterSeq q' (afterFrames fs d b q r i s) = afterFrames fs d b q' r i s := rfl

@[simp] theorem setRemaining_afterFrames (fs : List (Tag × List Byte)) (d : Tag) (b : List Byte) (q : SeqState)
    (r i : Word) (n : Nat) (s : State) :
    setRemaining n (afterFrames fs d b q r i s) = afterFrames fs d b q (BitVec.ofNat 32 n) i s := rfl

@[simp] theorem setIndex_afterFrames (fs : List (Tag × List Byte)) (d : Tag) (b : List Byte) (q : SeqState)
    (r i : Word) (n : Nat) (s : State) :
    setIndex n (afterFrames fs d b q r i s) = afterFrames fs d b q r (BitVec.ofNat 32 n) s := rfl

@[simp] theorem afterFrames_batch (fs : List (Tag × List Byte)) (d : Tag) (b : List Byte) (q : SeqState)
    (r i : Word) (s : State) : (afterFrames fs d b q r i s).batch = b := rfl

@[simp] theorem afterFrames_seqIndex (fs : List (Tag × List Byte)) (d : Tag) (b : List Byte) (q : SeqState)
    (r i : Word) (s : State) : (afterFrames fs d b q r i s).seqIndex = i := rfl

/-- What `Frame` can have done (40_transport.md R100). -/
theorem frame_ok {t : Tag} {bytes : List Byte} {s u : State} (h : frame t bytes s = .ok u) :
    s.xfer = .idle ∧ u = onWire (framesEvents [(t, bytes)]) t s := by
  rw [frame_eq] at h
  split at h
  · simp only [framesEvents_cons, framesEvents_nil, List.append_nil]
    exact ⟨‹_›, by simpa using h.symm⟩
  · cases h

/-- The frames of a wire command (40_transport.md R101). -/
def commandFrames (c : Byte) (params : List Byte) : List (Tag × List Byte) :=
  (.command, [c]) :: if params = [] then [] else [(.data, params)]

theorem commandEvents_eq_frames (c : Byte) (params : List Byte) :
    commandEvents c params = framesEvents (commandFrames c params) := by
  unfold commandEvents commandFrames
  split <;> simp

/-- The frames of a window (42_addressing.md R145). -/
def windowFrames (w : Rect) : List (Tag × List Byte) :=
  commandFrames 0x2A [hi8 w.a0, lo8 w.a0, hi8 w.a1, lo8 w.a1] ++
    commandFrames 0x2B [hi8 w.b0, lo8 w.b0, hi8 w.b1, lo8 w.b1] ++ commandFrames 0x2C []

theorem windowEvents_eq_frames (w : Rect) : windowEvents w = framesEvents (windowFrames w) := by
  simp only [windowEvents, windowFrames, commandEvents_eq_frames, framesEvents_append]

/-- What `SendCmd` can have done (40_transport.md R101). -/
theorem sendCmd_ok {c : Byte} {params : List Byte} {s u : State} (h : sendCmd c params s = .ok u) :
    s.xfer = .idle ∧
      u = onWire (framesEvents (commandFrames c params)) (if params = [] then .command else .data) s := by
  by_cases hi : s.xfer = .idle
  · rw [sendCmd_idle _ _ hi, commandEvents_eq_frames] at h
    exact ⟨hi, (Except.ok.inj h).symm⟩
  · rw [sendCmd_busy _ _ hi] at h; cases h

/-- What `EmitWindow` can have done (42_addressing.md R145). -/
theorem emitWindow_ok {w : Rect} {s u : State} (h : emitWindow w s = .ok u) :
    s.xfer = .idle ∧ u = onWire (framesEvents (windowFrames w)) .command s := by
  by_cases hi : s.xfer = .idle
  · rw [emitWindow_idle _ hi, windowEvents_eq_frames] at h
    exact ⟨hi, (Except.ok.inj h).symm⟩
  · rw [emitWindow_busy _ hi] at h; cases h

/-- What one frame from the batch buffer can have done (44_drawing.md R180). -/
theorem streamBatch_ok {k : Nat} {s u : State} (h : streamBatch k s = .ok u) :
    s.xfer = .idle ∧
      ∃ fs, fs ≠ [] ∧ u = afterFrames fs .data s.batch .seqStream s.seqRemaining s.seqIndex s := by
  obtain ⟨hi, rfl⟩ := frame_ok h
  exact ⟨hi, _, by simp, rfl⟩

/-- What the loop of `StreamFill` can have done, for any batch size (44_drawing.md R181). -/
theorem fillLoop_ok {fuel n : Nat} {s u : State} (h : fillLoop fuel n s = .ok u) :
    u = s ∨ s.xfer = .idle ∧ ∃ fs r, fs ≠ [] ∧ u = afterFrames fs .data s.batch .seqStream r s.seqIndex s := by
  induction fuel generalizing n s with
  | zero => exact .inl (Except.ok.inj h).symm
  | succ fuel ih =>
    rw [fillLoop] at h
    split at h
    · exact .inl (Except.ok.inj h).symm
    · simp only [bind, Except.bind] at h
      split at h
      · cases h
      · rename_i v hv
        obtain ⟨hi, fs, hne, rfl⟩ := streamBatch_ok hv
        obtain rfl | ⟨-, gs, r, -, rfl⟩ := ih h
        · exact .inr ⟨hi, fs, _, hne, setRemaining_afterFrames ..⟩
        · refine .inr ⟨hi, fs ++ gs, r, by simp [hne], ?_⟩
          simp

/-- What the loop of `StreamPixels` can have done, for any batch size (44_drawing.md R182). -/
theorem pixelLoop_ok {n fuel i : Nat} {pixel : Nat → List Byte} {s u : State}
    (h : pixelLoop n pixel fuel i s = .ok u) :
    u = s ∨ s.xfer = .idle ∧ ∃ fs b r j, fs ≠ [] ∧ u = afterFrames fs .data b .seqStream r j s := by
  induction fuel generalizing i s with
  | zero => exact .inl (Except.ok.inj h).symm
  | succ fuel ih =>
    rw [pixelLoop] at h
    split at h
    · exact .inl (Except.ok.inj h).symm
    · simp only [bind, Except.bind] at h
      split at h
      · cases h
      · rename_i v hv
        obtain ⟨hi, fs, hne, rfl⟩ := streamBatch_ok hv
        simp only [setRemaining_afterFrames, setIndex_afterFrames, afterFrames_primeBatch] at h
        obtain rfl | ⟨-, gs, b, r, j, -, rfl⟩ := ih h
        · exact .inr ⟨hi, fs, _, _, _, hne, rfl⟩
        · refine .inr ⟨hi, fs ++ gs, b, r, j, by simp [hne], ?_⟩
          simp

/-- What the drawing of a window can have done: frames, the batch buffer and the sequencer's counters
(44_drawing.md R180 to R182). -/
theorem drawWindow_ok {w : Rect} {stream : State → Except Fault State} {s u : State}
    (hstream : ∀ v x, stream v = .ok x →
      ∃ fs d b q r i,
        x = afterFrames fs d b q r i v ∨ x = { v with batch := b, seqState := q, seqRemaining := r, seqIndex := i })
    (h : drawWindow w stream s = .ok u) :
    s.xfer = .idle ∧ ∃ fs d b r i, fs ≠ [] ∧ u = afterFrames fs d b .seqIdle r i s := by
  unfold drawWindow at h
  simp only [bind, Except.bind] at h
  split at h
  · cases h
  · rename_i v hv
    obtain ⟨hi, rfl⟩ := emitWindow_ok hv
    split at h
    · cases h
    · rename_i x hx
      have hne : windowFrames w ≠ [] := by simp [windowFrames, commandFrames]
      obtain ⟨fs, d, b, q, r, i, rfl | rfl⟩ := hstream _ _ hx
      · refine ⟨hi, windowFrames w ++ fs, d, b, r, i, by simp [hne], ?_⟩
        rw [onWire_frames, afterFrames_afterFrames] at h
        simpa [endSequence] using (Except.ok.inj h).symm
      · exact ⟨hi, windowFrames w, .command, b, r, i, hne, (Except.ok.inj h).symm⟩

/-- What a solid fill can have done (44_drawing.md R183 to R188). -/
theorem fillRect_ok {x0 y0 x1 y1 : Half} {p : List Byte} {s u : State} (h : fillRect x0 y0 x1 y1 p s = .ok u) :
    u = s ∨ s.xfer = .idle ∧ ∃ fs d b r i, fs ≠ [] ∧ u = afterFrames fs d b .seqIdle r i s := by
  unfold fillRect at h
  split at h
  · exact .inl (Except.ok.inj h).symm
  · refine .inr (drawWindow_ok (fun v x hx => ?_) h)
    obtain rfl | ⟨-, fs, r, -, rfl⟩ := fillLoop_ok hx
    · exact ⟨[], .data, _, _, _, _, .inr rfl⟩
    · exact ⟨fs, .data, _, .seqStream, r, _, .inl
        ((afterFrames_setRemaining ..).trans (afterFrames_primeBatch ..))⟩

/-- What a bulk write can have done (44_drawing.md R189, R190). -/
theorem writeRect_ok {f : ArrayFormat} {x0 y0 x1 y1 : Half} {ptr len : Word} {s u : State}
    (h : writeRect f x0 y0 x1 y1 ptr len s = .ok u) :
    u = s ∨ s.xfer = .idle ∧ ∃ fs d b r i, fs ≠ [] ∧ u = afterFrames fs d b .seqIdle r i s := by
  unfold writeRect at h
  split at h
  · exact .inl (Except.ok.inj h).symm
  · split at h
    · exact .inl (Except.ok.inj h).symm
    · split at h
      · cases h
      · refine .inr (drawWindow_ok (fun v x hx => ?_) h)
        obtain rfl | ⟨-, fs, b, r, i, -, rfl⟩ := pixelLoop_ok hx
        · exact ⟨[], .data, _, _, _, _, .inr rfl⟩
        · exact ⟨fs, .data, b, .seqStream, r, i, .inl (by simp)⟩

end Sys2Proof.Machine
end

