-- ==== Sys2Proof/Laws/PerInstr.lean ====
section
/-! SUPPORT. A family of statements proved for each instruction: its encoding carries the code that its row of
30_encoding.md R74, or the command byte that R80 to R91, gives it. -/

namespace Sys2Proof

/-- The operation code of each host operation (30_encoding.md R74) and the command byte of each wire command
(R80 to R91). -/
def Instr.tableCode : Instr → Byte
  | .writeCommand _ => 0x40
  | .writeData _ => 0x41
  | .writeDataBuffer _ _ => 0x42
  | .writeDataDMA _ _ => 0x43
  | .isTransferBusy => 0x44
  | .waitTransferIdle => 0x45
  | .reset => 0x46
  | .setBacklight _ => 0x47
  | .setBacklightBrightness _ => 0x48
  | .initializeBlock _ => 0x50
  | .setWindow _ _ _ _ => 0x51
  | .setRotation _ => 0x52
  | .setPartialMode _ => 0x53
  | .setPartialArea _ _ => 0x54
  | .writeDMA _ _ => 0x55
  | .teardown => 0x5F
  | .drawPixel _ _ _ => 0x60
  | .drawPixelRGB24 _ _ _ => 0x61
  | .fillArea _ _ _ _ _ => 0x62
  | .fillAreaRGB24 _ _ _ _ _ => 0x63
  | .fillScreen _ => 0x64
  | .fillScreenRGB24 _ => 0x65
  | .writePixels _ _ _ _ _ _ => 0x66
  | .writePixelsRGB24 _ _ _ _ _ _ => 0x67
  | .rgb565ToRgb666 _ => 0x70
  | .rgb888ToRgb666 _ => 0x71
  | .wireReset => 0x01
  | .wireSleepOut => 0x11
  | .wirePartialModeOn => 0x12
  | .wireNormalModeOn => 0x13
  | .wireDisplayInvertOn => 0x21
  | .wireDisplayOn => 0x29
  | .wireColumnAddressSet _ _ => 0x2A
  | .wireRowAddressSet _ _ => 0x2B
  | .wireMemoryWrite => 0x2C
  | .wirePartialArea _ _ => 0x30
  | .wireMemoryAccessControl _ => 0x36
  | .wirePixelFormat _ => 0x3A

/-- The operation code in `W0[31:24]` of a descriptor, or the command byte of a wire command. -/
def Encoded.code : Encoded → Option Byte
  | .descriptor d => some (d.w0.extractLsb' 24 8)
  | .wire bytes => bytes.head?

theorem describe_code (code : Byte) (imm : Imm) (x0 y0 x1 y1 : Half) (ptr len : Word) :
    (describe code imm x0 y0 x1 y1 ptr len).code = some code := by
  simp only [describe, Encoded.code, word0, Option.some.injEq]
  ext k hk
  rw [BitVec.getElem_extractLsb']
  exact BitVec.getLsbD_append.trans (by simp [hk])

end Sys2Proof

namespace Sys2Proof.Laws

/-- The words of the instruction carry its table code. -/
def EncodedCode.Statement (i : Instr) : Prop := (encode i).code = some i.tableCode

theorem EncodedCode.writeCommand (byte : Byte) : EncodedCode.Statement (.writeCommand byte) :=
  describe_code _ _ _ _ _ _ _ _
theorem EncodedCode.writeData (byte : Byte) : EncodedCode.Statement (.writeData byte) :=
  describe_code _ _ _ _ _ _ _ _
theorem EncodedCode.writeDataBuffer (ptr len : Word) : EncodedCode.Statement (.writeDataBuffer ptr len) :=
  describe_code _ _ _ _ _ _ _ _
theorem EncodedCode.writeDataDMA (ptr len : Word) : EncodedCode.Statement (.writeDataDMA ptr len) :=
  describe_code _ _ _ _ _ _ _ _
theorem EncodedCode.isTransferBusy : EncodedCode.Statement .isTransferBusy := describe_code _ _ _ _ _ _ _ _
theorem EncodedCode.waitTransferIdle : EncodedCode.Statement .waitTransferIdle :=
  describe_code _ _ _ _ _ _ _ _
theorem EncodedCode.reset : EncodedCode.Statement .reset := describe_code _ _ _ _ _ _ _ _
theorem EncodedCode.setBacklight (flag : Bool) : EncodedCode.Statement (.setBacklight flag) :=
  describe_code _ _ _ _ _ _ _ _
theorem EncodedCode.setBacklightBrightness (level : Byte) : EncodedCode.Statement (.setBacklightBrightness level) :=
  describe_code _ _ _ _ _ _ _ _
theorem EncodedCode.initializeBlock (ptr : Word) : EncodedCode.Statement (.initializeBlock ptr) :=
  describe_code _ _ _ _ _ _ _ _
theorem EncodedCode.setWindow (x0 y0 x1 y1 : Half) : EncodedCode.Statement (.setWindow x0 y0 x1 y1) :=
  describe_code _ _ _ _ _ _ _ _
theorem EncodedCode.setRotation (rot : BitVec 2) : EncodedCode.Statement (.setRotation rot) :=
  describe_code _ _ _ _ _ _ _ _
theorem EncodedCode.setPartialMode (flag : Bool) : EncodedCode.Statement (.setPartialMode flag) :=
  describe_code _ _ _ _ _ _ _ _
theorem EncodedCode.setPartialArea (y0 y1 : Half) : EncodedCode.Statement (.setPartialArea y0 y1) :=
  describe_code _ _ _ _ _ _ _ _
theorem EncodedCode.writeDMA (ptr len : Word) : EncodedCode.Statement (.writeDMA ptr len) :=
  describe_code _ _ _ _ _ _ _ _
theorem EncodedCode.teardown : EncodedCode.Statement .teardown := describe_code _ _ _ _ _ _ _ _
theorem EncodedCode.drawPixel (x y : Half) (c565 : Half) : EncodedCode.Statement (.drawPixel x y c565) :=
  describe_code _ _ _ _ _ _ _ _
theorem EncodedCode.drawPixelRGB24 (x y : Half) (c888 : Imm) : EncodedCode.Statement (.drawPixelRGB24 x y c888) :=
  describe_code _ _ _ _ _ _ _ _
theorem EncodedCode.fillArea (x0 y0 x1 y1 : Half) (c565 : Half) : EncodedCode.Statement (.fillArea x0 y0 x1 y1 c565) :=
  describe_code _ _ _ _ _ _ _ _
theorem EncodedCode.fillAreaRGB24 (x0 y0 x1 y1 : Half) (c888 : Imm) : EncodedCode.Statement (.fillAreaRGB24 x0 y0 x1 y1 c888) :=
  describe_code _ _ _ _ _ _ _ _
theorem EncodedCode.fillScreen (c565 : Half) : EncodedCode.Statement (.fillScreen c565) :=
  describe_code _ _ _ _ _ _ _ _
theorem EncodedCode.fillScreenRGB24 (c888 : Imm) : EncodedCode.Statement (.fillScreenRGB24 c888) :=
  describe_code _ _ _ _ _ _ _ _
theorem EncodedCode.writePixels (x0 y0 x1 y1 : Half) (ptr len : Word) : EncodedCode.Statement (.writePixels x0 y0 x1 y1 ptr len) :=
  describe_code _ _ _ _ _ _ _ _
theorem EncodedCode.writePixelsRGB24 (x0 y0 x1 y1 : Half) (ptr len : Word) : EncodedCode.Statement (.writePixelsRGB24 x0 y0 x1 y1 ptr len) :=
  describe_code _ _ _ _ _ _ _ _
theorem EncodedCode.rgb565ToRgb666 (c565 : Half) : EncodedCode.Statement (.rgb565ToRgb666 c565) :=
  describe_code _ _ _ _ _ _ _ _
theorem EncodedCode.rgb888ToRgb666 (c888 : Imm) : EncodedCode.Statement (.rgb888ToRgb666 c888) :=
  describe_code _ _ _ _ _ _ _ _
theorem EncodedCode.wireReset : EncodedCode.Statement .wireReset := rfl
theorem EncodedCode.wireSleepOut : EncodedCode.Statement .wireSleepOut := rfl
theorem EncodedCode.wirePartialModeOn : EncodedCode.Statement .wirePartialModeOn := rfl
theorem EncodedCode.wireNormalModeOn : EncodedCode.Statement .wireNormalModeOn := rfl
theorem EncodedCode.wireDisplayInvertOn : EncodedCode.Statement .wireDisplayInvertOn := rfl
theorem EncodedCode.wireDisplayOn : EncodedCode.Statement .wireDisplayOn := rfl
theorem EncodedCode.wireColumnAddressSet (a0 a1 : Half) : EncodedCode.Statement (.wireColumnAddressSet a0 a1) :=
  rfl
theorem EncodedCode.wireRowAddressSet (b0 b1 : Half) : EncodedCode.Statement (.wireRowAddressSet b0 b1) := rfl
theorem EncodedCode.wireMemoryWrite : EncodedCode.Statement .wireMemoryWrite := rfl
theorem EncodedCode.wirePartialArea (p0 p1 : Half) : EncodedCode.Statement (.wirePartialArea p0 p1) := rfl
theorem EncodedCode.wireMemoryAccessControl (bits : Byte) : EncodedCode.Statement (.wireMemoryAccessControl bits) :=
  rfl
theorem EncodedCode.wirePixelFormat (fmt : Byte) : EncodedCode.Statement (.wirePixelFormat fmt) := rfl

end Sys2Proof.Laws
end

