-- ==== Sys2Proof/Laws/Steps.lean ====
section
/-! SUPPORT. What the bring-up sequence does, what `teardown` leaves, and the ways a step of the block can go. -/

namespace Sys2Proof.Machine

@[simp] theorem onWire_cs (es : List Event) (t : Tag) (s : State) : (onWire es t s).cs = .released := rfl
@[simp] theorem onWire_dc (es : List Event) (t : Tag) (s : State) : (onWire es t s).dc = t := rfl
@[simp] theorem onWire_trace (es : List Event) (t : Tag) (s : State) : (onWire es t s).trace = s.trace ++ es := rfl

/-- What a pause does (42_addressing.md R141). -/
theorem pause_eq (k : Fin 7) (s : State) :
    pause k s = { s with trace := s.trace ++ pauseEvents s.cfg.initDelay[k] } := by
  unfold pause pauseEvents
  by_cases h : s.cfg.initDelay[k] = 0
  · simp [h]
  · rw [if_pos (by omega), if_neg h]
    rfl

@[simp] theorem pause_xfer (k : Fin 7) (s : State) : (pause k s).xfer = s.xfer := by rw [pause_eq]
@[simp] theorem pause_cfg (k : Fin 7) (s : State) : (pause k s).cfg = s.cfg := by rw [pause_eq]

/-- A pause between two commands on the wire only adds its events. -/
theorem onWire_pause (es : List Event) (t : Tag) (k : Fin 7) (s : State) :
    onWire es t (pause k s) = onWire (pauseEvents s.cfg.initDelay[k] ++ es) t s := by
  rw [pause_eq]
  simp [onWire]

/-- The frames and events of the calibration table (30_encoding.md R92). -/
def calibrationEvents (table : List (Byte × List Byte)) : List Event := table.flatMap fun c => commandEvents c.1 c.2

/-- What the calibration does: its commands on the wire; the data/command line stands at the last frame's tag. -/
theorem calibrate_idle (table : List (Byte × List Byte)) {s : State} (hi : s.xfer = .idle) (hcs : s.cs = .released) :
    ∃ t, calibrate table s = .ok (onWire (calibrationEvents table) t s) := by
  induction table generalizing s with
  | nil => exact ⟨s.dc, by simp [calibrate, calibrationEvents, onWire, ← hcs]⟩
  | cons c table ih =>
    obtain ⟨c, params⟩ := c
    simp only [calibrate, bind, Except.bind, sendCmd_idle _ _ hi]
    obtain ⟨t, ht⟩ := ih (s := onWire (commandEvents c params) (if params = [] then .command else .data) s)
      (by simpa using hi) rfl
    refine ⟨t, ht.trans ?_⟩
    rw [onWire_onWire]
    rfl

/-- The state step 1 of `initialize` leaves (42_addressing.md R141). -/
theorem claimPins_eq (s : State) :
    claimPins s =
      { s with
        phase := .initializing, rotation := 0, width := s.cfg.panelW, height := s.cfg.panelH
        partialOn := false, partY0 := 0, partY1 := s.cfg.panelH - 1
        xfer := .idle, dmaClaimed := false, irqPending := false
        cs := .released, bl := 0, trace := s.trace ++ [.cs .released, .bl 0] } := by
  simp [claimPins, drive, driveAll, setPin]

/-- The events of the bring-up sequence after the reset pulse (42_addressing.md R141). -/
def bringUpCommands (cfg : Params) : List Event :=
  commandEvents 0x01 [] ++ (pauseEvents cfg.initDelay[0] ++ commandEvents 0x11 []) ++
    (pauseEvents cfg.initDelay[1] ++ commandEvents 0x36 [cfg.rotTable[0]]) ++
    (pauseEvents cfg.initDelay[2] ++ commandEvents 0x3A [0x66]) ++
    (pauseEvents cfg.initDelay[3] ++ calibrationEvents cfg.calibTable) ++
    (pauseEvents cfg.initDelay[4] ++ commandEvents 0x21 []) ++
    (pauseEvents cfg.initDelay[5] ++ commandEvents 0x29 []) ++ pauseEvents cfg.initDelay[6]

/-- What the bring-up sequence does (42_addressing.md R141). -/
theorem bringUp_eq (s : State) :
    bringUp s = .ok { s with
      phase := .ready, rotation := 0, width := s.cfg.panelW, height := s.cfg.panelH
      partialOn := false, partY0 := 0, partY1 := s.cfg.panelH - 1
      xfer := .idle, dmaClaimed := false, irqPending := false
      cs := .released, dc := .command, rst := .high, bl := 0
      trace := s.trace ++ [.cs .released, .bl 0] ++ resetPulseEvents s.cfg ++ bringUpCommands s.cfg } := by
  obtain ⟨u, hu⟩ : ∃ u, u = ({ claimPins s with
      trace := (claimPins s).trace ++ resetPulseEvents (claimPins s).cfg, rst := .high } : State) := ⟨_, rfl⟩
  have hx : u.xfer = .idle := by rw [hu, claimPins_eq]
  unfold bringUp
  simp only [bind, Except.bind]
  rw [resetPulse_idle (by rw [claimPins_eq]), ← hu]
  simp only []
  rw [sendCmd_idle _ _ hx]
  simp only []
  rw [sendCmd_idle _ _ (by simpa using hx)]
  simp only [onWire_pause, onWire_onWire, onWire_cfg]
  rw [sendCmd_idle _ _ (by simpa using hx)]
  simp only [onWire_pause, onWire_onWire, onWire_cfg]
  rw [sendCmd_idle _ _ (by simpa using hx)]
  simp only [onWire_pause, onWire_onWire, onWire_cfg]
  obtain ⟨v, hv⟩ : ∃ v, v = pause 3 (onWire
      (commandEvents 1 [] ++ (pauseEvents u.cfg.initDelay[(0 : Fin 7)] ++ commandEvents 17 []) ++
          (pauseEvents u.cfg.initDelay[(1 : Fin 7)] ++ commandEvents 54 [u.cfg.rotTable[0]]) ++
        (pauseEvents u.cfg.initDelay[(2 : Fin 7)] ++ commandEvents 58 [102]))
      (if [(102 : Byte)] = [] then Tag.command else Tag.data) u) := ⟨_, rfl⟩
  obtain ⟨t, ht⟩ := calibrate_idle u.cfg.calibTable (s := v) (by rw [hv]; simpa using hx)
    (by rw [hv, pause_eq]; rfl)
  rw [← hv, ht, hv]
  simp only [onWire_pause, onWire_onWire, onWire_cfg]
  rw [sendCmd_idle _ _ (by simpa using hx)]
  simp only [onWire_pause, onWire_onWire, onWire_cfg]
  rw [sendCmd_idle _ _ (by simpa using hx)]
  simp only [pause_eq, onWire_cfg, onWire_trace]
  subst hu
  simp [claimPins_eq, onWire, bringUpCommands]

/-- The fields `teardown` leaves as they are (42_addressing.md R151). -/
@[simp] theorem releaseBlock_kept (s : State) :
    (releaseBlock s).cfg = s.cfg ∧ (releaseBlock s).mainLine = s.mainLine ∧ (releaseBlock s).trace = s.trace ∧
      (releaseBlock s).responses = s.responses ∧ (releaseBlock s).mem = s.mem ∧ (releaseBlock s).inputs = s.inputs :=
  ⟨rfl, rfl, rfl, rfl, rfl, rfl⟩

/-- The fields `teardown` gives their reset value (42_addressing.md R151, 10_state.md R36). -/
@[simp] theorem releaseBlock_reset (s : State) :
    (releaseBlock s).phase = .uninitialized ∧ (releaseBlock s).xfer = .idle ∧ (releaseBlock s).rotation = 0 ∧
      (releaseBlock s).width = s.cfg.panelW ∧ (releaseBlock s).height = s.cfg.panelH ∧
      (releaseBlock s).partialOn = false ∧ (releaseBlock s).partY0 = 0 ∧
      (releaseBlock s).partY1 = s.cfg.panelH - 1 ∧ (releaseBlock s).dmaClaimed = false ∧
      (releaseBlock s).irqPending = false ∧ (releaseBlock s).seqState = .seqIdle ∧
      (releaseBlock s).batch.length = 3 * s.cfg.batchPixels.toNat :=
  ⟨rfl, rfl, rfl, rfl, rfl, rfl, rfl, rfl, rfl, rfl, rfl, by simp [releaseBlock]⟩

/-- A main line that is free, or held while a transfer lasts, leaves the step to the next stimulus (log 6). -/
theorem fetch_stimulus {s : State} (h : s.mainLine = .free ∨ (s.mainLine = .waiting ∧ s.xfer ≠ .idle)) :
    fetch s = fetchStimulus s := by
  rcases h with h | ⟨h, hx⟩ <;> simp [fetch, *]

/-- The ways a step can go: a hold ends; an agent beside the main line moves, at its turn, with no stimulus left or
during a hold; the host writes a byte; a request is taken at the free main line; or the main line stands at a wire
command (41_dma.md R122, 60_exceptions.md R221, 30_encoding.md R70, R75; logs 6, 8). -/
theorem step_cases (s : State) :
    (s.mainLine = .waiting ∧ s.xfer = .idle ∧ step s = .next (releaseHold s)) ∨
      (∃ i, s.mainLine = .emitting i ∧ step s = exec i { s with mainLine := .free }) ∨
      ((s.mainLine = .free ∨ (s.mainLine = .waiting ∧ s.xfer ≠ .idle)) ∧
        (step s = transferStep s ∨
          (∃ rest, s.inputs = .transferTurn :: rest ∧ step s = transferStep { s with inputs := rest }) ∨
          (∃ addr b rest, s.inputs = .hostWrite addr b :: rest ∧ step s = hostWrite addr b { s with inputs := rest }) ∨
          (s.mainLine = .free ∧
            ((∃ d rest i, s.inputs = .request d :: rest ∧
                decodeDescriptor (d.taken s.cfg.ptrBits s.cfg.lenBits) = .ok i ∧
                step s = exec i (acceptRequest (d.taken s.cfg.ptrBits s.cfg.lenBits) rest s)) ∨
              ∃ d rest e, s.inputs = .request d :: rest ∧
                decodeDescriptor (d.taken s.cfg.ptrBits s.cfg.lenBits) = .error e ∧
                step s = .next (respond illegalResult { s with inputs := rest }))))) := by
  cases hm : s.mainLine with
  | emitting i => exact .inr (.inl ⟨i, rfl, by simp [step, fetch, hm]⟩)
  | waiting =>
    by_cases hx : s.xfer = .idle
    · exact .inl ⟨rfl, hx, by simp [step, fetch, hm, hx]⟩
    refine .inr (.inr ⟨.inr ⟨rfl, hx⟩, ?_⟩)
    have hf := fetch_stimulus (s := s) (.inr ⟨hm, hx⟩)
    rcases hin : s.inputs with _ | ⟨_ | _ | _, rest⟩ <;> simp [step, hf, fetchStimulus, hin, hm]
  | free =>
    refine .inr (.inr ⟨.inl rfl, ?_⟩)
    have hf := fetch_stimulus (s := s) (.inl hm)
    rcases hin : s.inputs with _ | ⟨stimulus, rest⟩
    · exact .inl (by simp [step, hf, fetchStimulus, hin])
    cases stimulus with
    | transferTurn => exact .inr (.inl ⟨rest, rfl, by simp [step, hf, fetchStimulus, hin, hm]⟩)
    | hostWrite addr b => exact .inr (.inr (.inl ⟨addr, b, rest, rfl, by simp [step, hf, fetchStimulus, hin, hm]⟩))
    | request d =>
      refine .inr (.inr (.inr ⟨rfl, ?_⟩))
      cases hd : decodeDescriptor (d.taken s.cfg.ptrBits s.cfg.lenBits) with
      | ok i => exact .inl ⟨d, rest, i, rfl, hd, by simp [step, hf, fetchStimulus, hm, hin, fetchRequest, hd]⟩
      | error e => exact .inr ⟨d, rest, e, rfl, hd, by simp [step, hf, fetchStimulus, hm, hin, fetchRequest, hd]⟩

end Sys2Proof.Machine
end

