-- ==== Sys2Proof/Tests/Slice0.lean ====
section
/-! SUPPORT. Checks of the model against words, bytes and vectors taken from the spec (the encoding tables of
30_encoding.md, the vectors of 95_test_vectors.md), and for every statement with hypotheses a witness that meets them. -/

namespace Sys2Proof.Tests

open Sys2Proof Sys2Proof.Machine

/-! ## Well-formedness: a term each check refuses -/

theorem test_column_bounds_out_of_order : (Instr.wireColumnAddressSet 10 5).wellFormed = false := by decide
theorem test_row_bounds_out_of_order : (Instr.wireRowAddressSet 480 479).wellFormed = false := by decide
theorem test_band_out_of_order : (Instr.wirePartialArea 200 100).wellFormed = false := by decide
theorem test_pixel_format_other : (Instr.wirePixelFormat 0x55).wellFormed = false := by decide
theorem test_wellFormed_terms :
    (Instr.wireColumnAddressSet 5 5).wellFormed = true ∧ (Instr.wireRowAddressSet 0 479).wellFormed = true ∧
      (Instr.wirePartialArea 100 200).wellFormed = true ∧ (Instr.wirePixelFormat 0x66).wellFormed = true ∧
      (Instr.setWindow 10 10 5 5).wellFormed = true := by decide

/-! ## Decoding: every constructor's words, written out from 30_encoding.md (the descriptors of 95_test_vectors.md
2.1, the wire bytes of R80 to R91) -/

/-- What a descriptor of these five words decodes to. -/
def decoded (w0 w1 w2 w3 w4 : Word) : Except DecodeError Instr := decodeDescriptor ⟨w0, w1, w2, w3, w4⟩

theorem test_decode_writeCommand : decoded 0x4000002C 0 0 0 0 = .ok (.writeCommand 0x2C) := by decide
theorem test_decode_writeData : decoded 0x41000066 0 0 0 0 = .ok (.writeData 0x66) := by decide
theorem test_decode_writeDataBuffer : decoded 0x42000000 0 0 0x2000 3 = .ok (.writeDataBuffer 0x2000 3) := by decide
theorem test_decode_writeDataDMA : decoded 0x43000000 0 0 0x3000 6 = .ok (.writeDataDMA 0x3000 6) := by decide
theorem test_decode_isTransferBusy : decoded 0x44000000 0 0 0 0 = .ok .isTransferBusy := by decide
theorem test_decode_waitTransferIdle : decoded 0x45000000 0 0 0 0 = .ok .waitTransferIdle := by decide
theorem test_decode_reset : decoded 0x46000000 0 0 0 0 = .ok .reset := by decide
theorem test_decode_setBacklight : decoded 0x47000001 0 0 0 0 = .ok (.setBacklight true) := by decide
theorem test_decode_setBacklightBrightness :
    decoded 0x48000080 0 0 0 0 = .ok (.setBacklightBrightness 0x80) := by decide
theorem test_decode_initialize : decoded 0x50000000 0 0 0x1000 0 = .ok (.initializeBlock 0x1000) := by decide
theorem test_decode_setWindow :
    decoded 0x51000000 0x000A000A 0x00050005 0 0 = .ok (.setWindow 10 10 5 5) ∧
      decoded 0x51000000 0x012C0005 0x01000105 0 0 = .ok (.setWindow 300 5 256 261) := by decide
theorem test_decode_setRotation : decoded 0x52000001 0 0 0 0 = .ok (.setRotation 1) := by decide
theorem test_decode_setPartialMode : decoded 0x53000001 0 0 0 0 = .ok (.setPartialMode true) := by decide
theorem test_decode_setPartialArea :
    decoded 0x54000000 0x000000C8 0x00000064 0 0 = .ok (.setPartialArea 200 100) := by decide
theorem test_decode_writeDMA : decoded 0x55000000 0 0 0x3000 6 = .ok (.writeDMA 0x3000 6) := by decide
theorem test_decode_teardown : decoded 0x5F000000 0 0 0 0 = .ok .teardown := by decide
theorem test_decode_drawPixel : decoded 0x6000F800 0x00050007 0 0 0 = .ok (.drawPixel 5 7 0xF800) := by decide
theorem test_decode_drawPixelRGB24 :
    decoded 0x61123456 0x00050007 0 0 0 = .ok (.drawPixelRGB24 5 7 0x123456) := by decide
theorem test_decode_fillArea :
    decoded 0x6200F800 0 0x00090009 0 0 = .ok (.fillArea 0 0 9 9 0xF800) := by decide
theorem test_decode_fillAreaRGB24 :
    decoded 0x63FF8000 0x00020003 0x00030003 0 0 = .ok (.fillAreaRGB24 2 3 3 3 0xFF8000) := by decide
theorem test_decode_fillScreen : decoded 0x64000000 0 0 0 0 = .ok (.fillScreen 0) := by decide
theorem test_decode_fillScreenRGB24 : decoded 0x65FFFFFF 0 0 0 0 = .ok (.fillScreenRGB24 0xFFFFFF) := by decide
theorem test_decode_writePixels :
    decoded 0x66000000 0 0x00030000 0x4000 2 = .ok (.writePixels 0 0 3 0 0x4000 2) := by decide
theorem test_decode_writePixelsRGB24 :
    decoded 0x67000000 0 0x00010000 0x5000 1 = .ok (.writePixelsRGB24 0 0 1 0 0x5000 1) := by decide
theorem test_decode_rgb565 : decoded 0x70001234 0 0 0 0 = .ok (.rgb565ToRgb666 0x1234) := by decide
theorem test_decode_rgb888 : decoded 0x71123456 0 0 0 0 = .ok (.rgb888ToRgb666 0x123456) := by decide

theorem test_decode_wire_plain :
    decodeWire [0x01] = .ok .wireReset ∧ decodeWire [0x11] = .ok .wireSleepOut ∧
      decodeWire [0x12] = .ok .wirePartialModeOn ∧ decodeWire [0x13] = .ok .wireNormalModeOn ∧
      decodeWire [0x21] = .ok .wireDisplayInvertOn ∧ decodeWire [0x29] = .ok .wireDisplayOn ∧
      decodeWire [0x2C] = .ok .wireMemoryWrite := by decide
theorem test_decode_wire_bounds :
    decodeWire [0x2A, 0x00, 0x05, 0x01, 0x3F] = .ok (.wireColumnAddressSet 5 319) ∧
      decodeWire [0x2B, 0x00, 0x00, 0x01, 0xDF] = .ok (.wireRowAddressSet 0 479) ∧
      decodeWire [0x30, 0x00, 0x64, 0x01, 0x90] = .ok (.wirePartialArea 100 400) := by decide
theorem test_decode_wire_one_parameter :
    decodeWire [0x36, 0x48] = .ok (.wireMemoryAccessControl 0x48) ∧
      decodeWire [0x3A, 0x66] = .ok (.wirePixelFormat 0x66) := by decide

/-- Refusals by name: an illegal code (95_test_vectors.md 2.1), a byte that is no command, a wrong parameter count. -/
theorem test_decode_refusals :
    decoded 0x4F000000 1 2 3 4 = .error (.illegalCode 0x4F) ∧ decodeWire [0x2D] = .error (.unknownWireCommand 0x2D) ∧
      decodeWire [0x2A, 0, 1] = .error (.wireParameterCount 0x2A 2) ∧ decodeWire [] = .error .noWireCommand := by
  decide

/-- Fields outside the format (95_test_vectors.md 2.1, "ignored fields"). -/
theorem test_decode_ignored_fields :
    decoded 0x40123456 0xFFFFFFFF 0xFFFFFFFF 0xFFFFFFFF 0xFFFFFFFF = .ok (.writeCommand 0x56) ∧
      decoded 0x52000005 0 0 0 0 = .ok (.setRotation 1) ∧ decoded 0x47000002 0 0 0 0 = .ok (.setBacklight false) ∧
      decoded 0x50000000 0 0 0x1000 0xDEADBEEF = .ok (.initializeBlock 0x1000) := by decide

/-- Table words: a descriptor from its `W0` alone, a wire command from its command byte alone. -/
theorem test_decodeTableWord :
    decodeTableWord 32 0x4000002C = some (.writeCommand 0x2C) ∧ decodeTableWord 32 0x51000000 = some (.setWindow 0 0 0 0) ∧
      decodeTableWord 160 (0x54000000 + 0xC8 * 2 ^ 32 + 0x64 * 2 ^ 64) = some (.setPartialArea 200 100) ∧
      decodeTableWord 8 0x2A = some (.wireColumnAddressSet 0 0) ∧ decodeTableWord 32 0x00000000 = none := by decide

/-! ## States and what a run shows -/

/-- The parameters of 95_test_vectors.md ("Conventions"). -/
def vectorParams : Params where
  panelW := 320
  panelH := 480
  rotTable := #v[0x48, 0x28, 0x88, 0xE8]
  chunkBytes := 4096
  batchPixels := 256
  tRstSettle := 10
  tRstPulse := 20
  tRstRecover := 120
  initDelay := #v[120, 120, 0, 0, 0, 0, 0]
  calibTable := []
  dmaCapable := true
  dmaClaimOk := true
  transportInitOk := true
  spiClockHz := 0
  spiMsbFirst := true
  spiMode := 0
  csActiveLevel := false
  dcCommandLevel := false
  ptrBits := 32
  lenBits := 32

/-- A small panel with batches of two pixels and chunks of two bytes. -/
def smallParams : Params := { vectorParams with panelW := 4, panelH := 6, chunkBytes := 2, batchPixels := 2 }

/-- The state after reset of an instance with the vectors' parameters. -/
def cold : State := State.resetWith vectorParams

/-- `Ready0` of 95_test_vectors.md, its trace left empty. -/
def ready : State := { cold with phase := .ready }

/-- A ready instance of the small panel. -/
def small : State := { State.resetWith smallParams with phase := .ready }

/-- A ready instance with pointers of 16 bits and lengths of 12. -/
def narrow : State := { ready with cfg := { vectorParams with ptrBits := 16, lenBits := 12 } }

/-- `ready` just after `writeDataDMA(0x3000, 6)`, host bytes `3F 00 00 00 3F 00` at 0x3000. -/
def inFlight : State :=
  { ready with
    mem := [(0x3000, 0x3F), (0x3004, 0x3F)], xfer := .inFlight, dmaClaimed := true
    dmaPtr := 0x3000, dmaLen := 6, dmaPos := 0, cs := .asserted, dc := .data }

/-- `inFlight` after its last byte, the interrupt pending. -/
def pending : State := { inFlight with dmaPos := 6, irqPending := true }

/-- The same state with these stimuli. -/
def given (inputs : List Input) (s : State) : State := { s with inputs := inputs }

/-- The events an outcome appended, none where the run stopped. -/
def appended (s : State) : Host.Outcome State Fault Refusal → Option (List Event)
  | .next t => some (t.trace.drop s.trace.length)
  | _ => none

/-- The responses an outcome delivered, none where the run stopped. -/
def answered (s : State) : Host.Outcome State Fault Refusal → Option (List Word)
  | .next t => some (t.responses.drop s.responses.length)
  | _ => none

/-- One field of the next state, none where the run stopped. -/
def after {α : Type} (field : State → α) : Host.Outcome State Fault Refusal → Option α
  | .next t => some (field t)
  | _ => none

/-- The fault of an outcome. -/
def faultOf : Host.Outcome State Fault Refusal → Option Fault
  | .fault f => some f
  | _ => none

/-- `<C:c>` of 95_test_vectors.md. -/
def cmd (c : Byte) : List Event := [.cs .asserted, .dc .command, .tx c, .cs .released]

/-- `<D:..>` of 95_test_vectors.md. -/
def dat (bytes : List Byte) : List Event := [.cs .asserted, .dc .data] ++ bytes.map .tx ++ [.cs .released]

/-! ## One-step vectors of 95_test_vectors.md -/

theorem test_writeCommand : appended ready (exec (.writeCommand 0x2C) ready) = some (cmd 0x2C) := by decide
theorem test_writeData : appended ready (exec (.writeData 0x66) ready) = some (dat [0x66]) := by decide
theorem test_writeDataBuffer_top_of_memory :
    let s := { ready with mem := [(0xFFFFFFFC, 1), (0xFFFFFFFD, 2), (0xFFFFFFFE, 3), (0xFFFFFFFF, 4)] }
    appended s (exec (.writeDataBuffer 0xFFFFFFFC 4) s) = some (dat [1, 2, 3, 4]) ∧
      appended s (exec (.writeDataBuffer 0xFFFFFFFC 5) s) = some [] := by decide
theorem test_reset :
    appended ready (exec .reset ready) =
      some [.rst .high, .delay 10, .rst .low, .delay 20, .rst .high, .delay 120] := by decide
theorem test_setBacklight : appended ready (exec (.setBacklight true) ready) = some [.bl 0xFF] := by decide
theorem test_setBacklightBrightness :
    appended inFlight (exec (.setBacklightBrightness 0x40) inFlight) = some [.bl 0x40] := by decide
theorem test_writeDataDMA_starts :
    appended ready (exec (.writeDataDMA 0x3000 6) ready) = some [.cs .asserted, .dc .data] ∧
      after State.dmaLen (exec (.writeDataDMA 0x3000 6) ready) = some 6 := by decide
theorem test_writeDataDMA_busy :
    appended inFlight (exec (.writeDataDMA 0x3000 6) inFlight) = some [] ∧
      answered inFlight (exec (.writeDataDMA 0x3000 6) inFlight) = some [0] := by decide
theorem test_isTransferBusy : answered inFlight (exec .isTransferBusy inFlight) = some [1] := by decide
theorem test_waitTransferIdle_holds :
    answered inFlight (exec .waitTransferIdle inFlight) = some [] ∧
      after State.mainLine (exec .waitTransferIdle inFlight) = some .waiting := by decide
theorem test_initialize_cold_boot :
    appended cold (exec (.initializeBlock 0x1000) cold) =
      some ([.cs .released, .bl 0, .rst .high, .delay 10, .rst .low, .delay 20, .rst .high, .delay 120] ++ cmd 0x01 ++
        [.delay 120] ++ cmd 0x11 ++ [.delay 120] ++ cmd 0x36 ++ dat [0x48] ++ cmd 0x3A ++ dat [0x66] ++ cmd 0x21 ++
        cmd 0x29) := by decide
theorem test_initialize_null :
    answered cold (exec (.initializeBlock 0) cold) = some [0] ∧
      after State.phase (exec (.initializeBlock 0) cold) = some .uninitialized := by decide
theorem test_setWindow_order :
    appended ready (exec (.setWindow 300 5 256 261) ready) =
      some (cmd 0x2A ++ dat [0x01, 0x00, 0x01, 0x2C] ++ cmd 0x2B ++ dat [0x00, 0x05, 0x01, 0x05] ++ cmd 0x2C) := by
  decide
theorem test_setWindow_outside :
    appended ready (exec (.setWindow 0 0 320 0) ready) = some [] := by decide
theorem test_setRotation :
    appended ready (exec (.setRotation 3) ready) = some (cmd 0x36 ++ dat [0xE8]) ∧
      after State.width (exec (.setRotation 3) ready) = some 480 := by decide
theorem test_setRotation_clamps_the_band :
    let s := { ready with partY0 := 400, partY1 := 450 }
    after State.partY0 (exec (.setRotation 1) s) = some 319 ∧
      after State.partY1 (exec (.setRotation 1) s) = some 319 := by decide
theorem test_setPartialMode : appended ready (exec (.setPartialMode true) ready) = some (cmd 0x12) := by decide
theorem test_setPartialArea :
    appended ready (exec (.setPartialArea 500 100) ready) = some (cmd 0x30 ++ dat [0x00, 0x64, 0x01, 0xDF]) ∧
      after State.partY1 (exec (.setPartialArea 500 100) ready) = some 479 := by decide
theorem test_writeDMA :
    appended ready (exec (.writeDMA 0x2000 3) ready) = some [.dc .data, .cs .asserted, .dc .data] ∧
      appended inFlight (exec (.writeDMA 0x2000 3) inFlight) = some [.dc .data] := by decide
theorem test_teardown :
    let s := { ready with rotation := 1, width := 480, height := 320, partialOn := true }
    after (fun t => (t.phase, t.width, t.partialOn, t.trace)) (exec .teardown s) =
      some (.uninitialized, 320, false, []) := by decide
theorem test_drawPixel :
    appended ready (exec (.drawPixel 5 7 0xF800) ready) =
      some (cmd 0x2A ++ dat [0, 5, 0, 5] ++ cmd 0x2B ++ dat [0, 7, 0, 7] ++ cmd 0x2C ++ dat [0x3F, 0, 0]) ∧
      appended ready (exec (.drawPixel 320 0 0xFFFF) ready) = some [] := by decide
theorem test_drawPixelRGB24 :
    (appended ready (exec (.drawPixelRGB24 5 7 0x123456) ready)).map (List.drop 26) =
      some (dat [0x04, 0x0D, 0x15]) := by decide
/-- From 44_drawing.md R181: three pixels in batches of two are a frame of two and a frame of one. -/
theorem test_fillArea_batches :
    (appended small (exec (.fillArea 1 5 3 5 0x001F) small)).map (List.drop 26) =
      some (dat [0, 0, 0x3F, 0, 0, 0x3F] ++ dat [0, 0, 0x3F]) := by decide
theorem test_fillAreaRGB24 :
    appended ready (exec (.fillAreaRGB24 2 3 3 3 0xFF8000) ready) =
      some (cmd 0x2A ++ dat [0, 2, 0, 3] ++ cmd 0x2B ++ dat [0, 3, 0, 3] ++ cmd 0x2C ++
        dat [0x3F, 0x20, 0, 0x3F, 0x20, 0]) := by decide
/-- From 44_drawing.md R187: six pixels, three frames of nine events after the window's 26. -/
theorem test_fillScreen :
    let s := { small with width := 2, height := 3 }
    (appended s (exec (.fillScreen 0) s)).map List.length = some (26 + 3 * 9) ∧
      appended s (exec (.fillScreen 0) { s with partialOn := true, partY1 := 1 }) = some [] := by decide
theorem test_fillScreenRGB24 :
    (appended small (exec (.fillScreenRGB24 0xFF0000) small)).map (fun es => (es.drop 26).take 9) =
      some (dat [0x3F, 0, 0, 0x3F, 0, 0]) := by decide
theorem test_writePixels_cycles :
    let s := { ready with mem := [(0x4001, 0xF8), (0x4002, 0x1F)] }
    appended s (exec (.writePixels 0 0 3 0 0x4000 2) s) =
      some (cmd 0x2A ++ dat [0, 0, 0, 3] ++ cmd 0x2B ++ dat [0, 0, 0, 0] ++ cmd 0x2C ++
        dat [0x3F, 0, 0, 0, 0, 0x3F, 0x3F, 0, 0, 0, 0, 0x3F]) := by decide
theorem test_writePixels_bad_range :
    faultOf (exec (.writePixels 0 0 3 0 0xFFFFFFFF 2) ready) = some .badRange := by decide
/-- From 20_memory.md R52: the top byte of an RGB888 element is ignored. -/
theorem test_writePixelsRGB24 :
    let s := { ready with mem := [(0x5000, 0x56), (0x5001, 0x34), (0x5002, 0x12), (0x5003, 0xFF)] }
    (appended s (exec (.writePixelsRGB24 0 0 1 0 0x5000 1) s)).map (List.drop 26) =
      some (dat [0x04, 0x0D, 0x15, 0x04, 0x0D, 0x15]) := by decide
theorem test_rgb565 : answered cold (exec (.rgb565ToRgb666 0xABCD) cold) = some [0x0002B79A] := by decide
theorem test_rgb888 : answered inFlight (exec (.rgb888ToRgb666 0x80FF7F) inFlight) = some [0x00020FDF] := by decide
theorem test_wire_plain :
    (([(.wireReset, 0x01), (.wireSleepOut, 0x11), (.wirePartialModeOn, 0x12), (.wireNormalModeOn, 0x13),
        (.wireDisplayInvertOn, 0x21), (.wireDisplayOn, 0x29), (.wireMemoryWrite, 0x2C)] : List (Instr × Byte)).all
      fun ic => appended ready (exec ic.1 ready) = some (cmd ic.2)) = true := by decide
theorem test_wire_bounds :
    appended ready (exec (.wireColumnAddressSet 5 319) ready) = some (cmd 0x2A ++ dat [0x00, 0x05, 0x01, 0x3F]) ∧
      appended ready (exec (.wireRowAddressSet 0 479) ready) = some (cmd 0x2B ++ dat [0x00, 0x00, 0x01, 0xDF]) ∧
      appended ready (exec (.wirePartialArea 100 400) ready) = some (cmd 0x30 ++ dat [0x00, 0x64, 0x01, 0x90]) := by
  decide
theorem test_wire_one_parameter :
    appended ready (exec (.wireMemoryAccessControl 0x28) ready) = some (cmd 0x36 ++ dat [0x28]) ∧
      appended ready (exec (.wirePixelFormat 0x66) ready) = some (cmd 0x3A ++ dat [0x66]) := by decide

/-- 95_test_vectors.md 2.3: what stops the run while a transfer is in flight, and before bring-up. -/
theorem test_undefined_outcomes :
    ([.writeCommand 0x2C, .writeData 0, .drawPixel 0 0 0, .setWindow 0 0 1 1, .setRotation 0, .setPartialMode true,
        .setPartialArea 0 1, .reset, .teardown] : List Instr).map (fun i => faultOf (exec i inFlight)) =
      List.replicate 9 (some .busConflict) ∧
    ([.writeCommand 0x2C, .isTransferBusy, .setBacklight true, .teardown, .setRotation 0] : List Instr).map
        (fun i => faultOf (exec i cold)) =
      List.replicate 5 (some .notReady) := by decide

/-! ## The agents and the step -/

theorem test_dma_beat :
    appended inFlight (step (given [.transferTurn] inFlight)) = some [.tx 0x3F] ∧
      after State.dmaPos (step (given [.transferTurn] inFlight)) = some 1 := by decide
theorem test_completion_handler :
    appended pending (step (given [.transferTurn] pending)) = some [.cs .released] ∧
      after (fun t => (t.xfer, t.irqPending, t.cs, t.dc, t.dmaClaimed)) (step (given [.transferTurn] pending)) =
        some (.idle, false, .released, .data, true) := by decide
theorem test_buffer_race :
    faultOf (step (given [.hostWrite 0x3005 1] inFlight)) = some .bufferRace ∧
      after State.mem (step (given [.hostWrite 0x3006 1] inFlight)) =
        some [(0x3000, 0x3F), (0x3004, 0x3F), (0x3006, 1)] := by decide
theorem test_illegal_code :
    answered cold (step (given [.request ⟨0x4F000000, 1, 2, 3, 4⟩] cold)) = some [0x80000000] ∧
      appended cold (step (given [.request ⟨0x4F000000, 1, 2, 3, 4⟩] cold)) = some [] := by decide
theorem test_request_loads_the_latch :
    after (fun t => (t.latch.code, t.latch.y0, t.latch.y1, t.inputs))
        (step (given [.request ⟨0x54000000, 0x000000C8, 0x00000064, 0, 0⟩] ready)) =
      some (0x54, 200, 100, []) := by decide
theorem test_withFetchWord_after_reset :
    answered State.reset (step (State.reset.withFetchWord 32 0x7000FFFF)) = some [0x0003FFFF] ∧
      appended State.reset (step (State.reset.withFetchWord 8 0x2A)) = some (cmd 0x2A ++ dat [0, 0, 0, 0]) ∧
      faultOf (step (State.reset.withFetchWord 32 0x4000002C)) = some .notReady := by decide
/-- Log 10: the port takes 16 bits of the pointer and 12 of the length, and host memory ends at `2^16`. -/
theorem test_narrow_widths :
    after (fun t => (t.latch.ptr, t.latch.len)) (step (given [.request ⟨0x43000000, 0, 0, 0xABCD3000, 0xF006⟩] narrow)) =
        some (0x3000, 6) ∧
      answered narrow (exec (.writeDataDMA 0xFFFC 5) narrow) = some [0] ∧
      faultOf (step (given [.hostWrite 0x10000 1] narrow)) = some .noSuchAddress := by decide
theorem test_memory_write_keeps_the_form :
    writeByte [(1, 5), (3, 7)] 2 6 = [(1, 5), (2, 6), (3, 7)] ∧ writeByte [(1, 5), (3, 7)] 3 0 = [(1, 5)] ∧
      Memory.wf [(3, 7), (1, 5)] = false ∧ Memory.wf [(1, 0)] = false := by decide

/-! ## Witnesses: states and operands that meet the hypotheses of the statements, clause by clause -/

/-- The range condition of the buffer statements. -/
abbrev valid (s : State) (ptr len : Word) : Prop := ptr ≠ 0 ∧ len ≠ 0 ∧ ptr.toNat + len.toNat ≤ 2 ^ s.cfg.ptrBits

/-- The condition under which the DMA statements start a transfer. -/
abbrev starts (s : State) (ptr len : Word) : Prop :=
  s.xfer = .idle ∧ (ptr ≠ 0 ∧ len ≠ 0 ∧ ptr.toNat + len.toNat ≤ 2 ^ s.cfg.ptrBits) ∧ s.cfg.dmaCapable = true ∧
    (s.dmaClaimed = true ∨ s.cfg.dmaClaimOk = true)

/-- The condition under which a pixel is drawn. -/
abbrev inside (s : State) (x y : Half) : Prop :=
  x < s.width ∧ y < s.height ∧ (s.partialOn = true → s.partY0 ≤ y ∧ y ≤ s.partY1)

/-- The condition under which the whole screen is filled. -/
abbrev whole (s : State) : Prop := s.partialOn = true → s.partY0 = 0 ∧ s.height - 1 ≤ s.partY1

/-- The condition of a buffer race. -/
abbrev race (s : State) (a : Word) (b : Byte) : Prop :=
  s.xfer ≠ .idle ∧ s.dmaPtr.toNat ≤ a.toNat ∧ a.toNat < s.dmaPtr.toNat + s.dmaLen.toNat ∧ readByte s.mem a.toNat ≠ b

/-- The operation code of a first word. -/
abbrev code (w : Word) : Byte := w.extractLsb' 24 8

/-- A ready instance whose DMA claim fails. -/
def noClaim : State := { ready with cfg := { vectorParams with dmaClaimOk := false } }

/-- The same with the channel claimed already. -/
def claimed : State := { noClaim with dmaClaimed := true }

/-- A ready instance with no DMA engine. -/
def noEngine : State := { ready with cfg := { vectorParams with dmaCapable := false } }

/-- The hypotheses every guarded statement splits on: ready and idle, ready and busy, not ready. -/
theorem witness_guards :
    (ready.phase = .ready ∧ ready.xfer = .idle ∧ ready.mainLine = .free) ∧
      (inFlight.phase = .ready ∧ inFlight.xfer ≠ .idle) ∧ cold.phase ≠ .ready := by decide

theorem ready_invariant : Invariant ready where
  admitted := by decide
  size := by unfold sizeMatchesRotation; decide
  band := by unfold bandInside; decide
  phase := by decide
  transfer := by unfold transferSound; decide
  interrupt := by unfold interruptSound; decide
  hold := by decide
  emission := nofun
  sequencer := by decide
  batch := List.length_replicate
  memory := by decide
  inside := nofun

theorem inFlight_invariant : Invariant inFlight where
  admitted := by decide
  size := by unfold sizeMatchesRotation; decide
  band := by unfold bandInside; decide
  phase := by decide
  transfer := by unfold transferSound; decide
  interrupt := by unfold interruptSound; decide
  hold := by decide
  emission := nofun
  sequencer := by decide
  batch := List.length_replicate
  memory := by decide
  inside := by decide

theorem witness_WriteCommandFramesItsByte :
    (ready.phase = .ready ∧ ready.xfer = .idle) ∧ (inFlight.phase = .ready ∧ inFlight.xfer ≠ .idle) ∧
      cold.phase ≠ .ready := by decide

theorem witness_WriteDataFramesItsByte :
    (ready.phase = .ready ∧ ready.xfer = .idle) ∧ (inFlight.phase = .ready ∧ inFlight.xfer ≠ .idle) ∧
      cold.phase ≠ .ready := by decide

/-- A range that ends at `2^32`, one byte further, the null pointer and the empty range. -/
theorem witness_WriteDataBufferFramesItsRange :
    (ready.phase = .ready ∧ ready.xfer = .idle ∧ valid ready 0xFFFFFFFC 4) ∧
      (¬valid ready 0xFFFFFFFC 5 ∧ ¬valid ready 0 3 ∧ ¬valid ready 0x2000 0) ∧
      (narrow.phase = .ready ∧ narrow.xfer = .idle ∧ valid narrow 0xFFFC 4 ∧ ¬valid narrow 0xFFFC 5) ∧
      (inFlight.phase = .ready ∧ inFlight.xfer ≠ .idle ∧ valid inFlight 0x2000 1) ∧ cold.phase ≠ .ready := by decide

theorem witness_ChunkingIsInvisible :
    0 < 2 ∧ pieces 2 [1, 2, 3] = [[1, 2], [3]] ∧ pieces 2 [1, 2] = [[1, 2]] ∧ pieces 2 [] = [] ∧
      0 < small.cfg.chunkBytes := by decide

theorem witness_ResetDrivesThePulse :
    (ready.phase = .ready ∧ ready.xfer = .idle) ∧ (inFlight.phase = .ready ∧ inFlight.xfer ≠ .idle) ∧
      cold.phase ≠ .ready := by decide

theorem witness_BacklightIsDrivenInAnyTransferState :
    ready.phase = .ready ∧ inFlight.phase = .ready ∧ cold.phase ≠ .ready := by decide

/-- Starts: unclaimed with a claim that succeeds, claimed already, a range that ends at `2^32`. Does not start: busy,
null, empty, one byte too long, no DMA engine, no claim. -/
theorem witness_WriteDataDmaStartsOrAnswersFalse :
    (ready.phase = .ready ∧ starts ready 0xFFFFFFFC 4) ∧ (claimed.phase = .ready ∧ starts claimed 0x3000 1) ∧
      cold.phase ≠ .ready := by decide
theorem witness_WriteDataDmaStartsOrAnswersFalse_not :
    (inFlight.phase = .ready ∧ ¬starts inFlight 0x3000 6) ∧ (¬starts ready 0 4 ∧ ¬starts ready 0x2000 0) ∧
      ¬starts ready 0xFFFFFFFC 5 ∧ ¬starts noEngine 0x3000 6 ∧ ¬starts noClaim 0x3000 6 := by decide

theorem witness_WriteDmaDrivesDataFirst :
    (ready.phase = .ready ∧ starts ready 0xFFFFFFFC 4) ∧ (inFlight.phase = .ready ∧ ¬starts inFlight 0x3000 6) ∧
      ¬starts ready 0xFFFFFFFC 5 ∧ cold.phase ≠ .ready := by decide

theorem witness_IsTransferBusyReadsTheFlag :
    ready.phase = .ready ∧ inFlight.phase = .ready ∧ cold.phase ≠ .ready := by decide

theorem witness_WaitTransferIdleReturnsOrHolds :
    let held := { inFlight with mainLine := .waiting, inputs := [.request ⟨0x44000000, 0, 0, 0, 0⟩] }
    (ready.phase = .ready ∧ ready.xfer = .idle) ∧ (inFlight.phase = .ready ∧ inFlight.xfer ≠ .idle) ∧
      cold.phase ≠ .ready ∧
      (held.mainLine = .waiting ∧ held.xfer ≠ .idle ∧ held.inputs = .request ⟨0x44000000, 0, 0, 0, 0⟩ :: []) ∧
      ({ ready with mainLine := .waiting } : State).mainLine = .waiting := by decide

theorem witness_DmaBeatClocksTheNextByte :
    let last := given [.transferTurn] { inFlight with dmaPos := 5 }
    interruptSound last ∧ transferSound last ∧ last.mainLine = .free ∧ last.inputs = .transferTurn :: [] ∧ last.xfer = .inFlight ∧
      last.dmaPos < last.dmaLen := by
  unfold interruptSound transferSound
  decide

theorem witness_DmaDoneRaisesTheInterrupt :
    let ended := given [.transferTurn] { inFlight with dmaPos := 6 }
    ended.mainLine = .free ∧ ended.inputs = .transferTurn :: [] ∧ ended.xfer = .inFlight ∧ ended.dmaPos = ended.dmaLen ∧
      ended.irqPending = false := by decide

theorem witness_CompletionHandlerReleasesTheBus :
    interruptSound (given [.transferTurn] pending) ∧ pending.mainLine = .free ∧
      (given [.transferTurn] pending).inputs = .transferTurn :: [] ∧
      (given [.transferTurn] pending).irqPending = true := by
  unfold interruptSound
  decide

theorem witness_WithoutStimulusTheTransferGoesOn :
    (inFlight.inputs = [] ∧ inFlight.mainLine = .free ∧ inFlight.xfer ≠ .idle ∧ ready.inputs = [] ∧
        ready.mainLine = .free) ∧
      ((given [.transferTurn] ready).inputs = .transferTurn :: [] ∧ ready.mainLine = .free ∧ ready.xfer = .idle ∧
        ready.irqPending = false) ∧
      quiescent ready ∧ interruptSound ready := by
  unfold quiescent interruptSound
  decide

/-- A whole transfer, the last byte, and none left. -/
theorem witness_TransferRunsToCompletion :
    Invariant inFlight ∧ inFlight.xfer = .inFlight ∧ inFlight.irqPending = false ∧ inFlight.inputs = [] ∧
      inFlight.mainLine = .free :=
  ⟨inFlight_invariant, by decide⟩

theorem witness_WaitReturnsAfterTheWholeTransfer :
    let held := { inFlight with mainLine := .waiting }
    Invariant held ∧ held.xfer = .inFlight ∧ held.irqPending = false ∧ held.inputs = [] ∧ held.mainLine = .waiting :=
  ⟨{ inFlight_invariant with hold := fun _ => rfl, emission := nofun }, by decide⟩

theorem witness_DmaTransferEqualsBufferFrame :
    Invariant ready ∧ ready.phase = .ready ∧ ready.xfer = .idle ∧ ready.inputs = [] ∧ ready.mainLine = .free ∧
      validRange ready.cfg 0xFFFFFFFC 4 = true ∧ ready.cfg.dmaCapable = true ∧ ready.cfg.dmaClaimOk = true :=
  ⟨ready_invariant, by decide⟩

theorem witness_BusyMainLineDrivesNoBus :
    inFlight.phase = .ready ∧ inFlight.xfer ≠ .idle ∧
      exec (.writeDMA 0x3000 6) inFlight = .next (respond 0 (drive (.dc .data) inFlight)) :=
  ⟨by decide, by decide, rfl⟩

theorem witness_OnlyTheHandlerEndsATransfer :
    pending.phase = .ready ∧ pending.xfer = .inFlight ∧ step pending = .next (takeCompletionInterrupt pending) ∧
      (takeCompletionInterrupt pending).xfer ≠ .inFlight :=
  ⟨by decide, by decide, rfl, by decide⟩

/-- The last byte of the buffer changed, the same byte written again, the byte after the buffer. -/
theorem witness_BufferChangeInFlightIsARace :
    (given [.hostWrite 0x3005 1] inFlight).inputs = .hostWrite 0x3005 1 :: [] ∧ inFlight.mainLine = .free ∧
      race inFlight 0x3005 1 ∧ race inFlight 0x3000 1 ∧ ¬race inFlight 0x3005 0 ∧ ¬race inFlight 0x3006 1 ∧
      ¬race inFlight 0x2FFF 1 ∧ inFlight.mem.wf = true ∧ (0xFFFFFFFF : Word).toNat < 2 ^ inFlight.cfg.ptrBits ∧
      (0xFFFF : Word).toNat < 2 ^ narrow.cfg.ptrBits ∧ ¬(0x10000 : Word).toNat < 2 ^ narrow.cfg.ptrBits ∧
      narrow.mainLine = .free := by decide

theorem witness_IllegalCodesAreAnsweredWithoutEffect :
    cold.mainLine = .free ∧ (given [.request ⟨0x4F000000, 1, 2, 3, 4⟩] cold).inputs = .request ⟨0x4F000000, 1, 2, 3, 4⟩ :: [] ∧
      (0x4F : Byte) ∉
        ([0x40, 0x41, 0x42, 0x43, 0x44, 0x45, 0x46, 0x47, 0x48, 0x50, 0x51, 0x52, 0x53, 0x54, 0x55, 0x5F, 0x60, 0x61,
          0x62, 0x63, 0x64, 0x65, 0x66, 0x67, 0x70, 0x71] : List Byte) ∧
      (0x4F000000 : Word).extractLsb' 24 8 = 0x4F := by decide

/-- Two descriptors of each format that differ in every bit it does not read. -/
theorem witness_UnusedDescriptorFieldsAreIgnored :
    (code 0x44000000 = code 0x44FFFFFF) ∧
      (code 0x40FFFF56 = code 0x40000056 ∧
        (0x40FFFF56 : Word).extractLsb' 0 8 = (0x40000056 : Word).extractLsb' 0 8) ∧
      (code 0x47FFFFFF = code 0x47000001 ∧
        (0x47FFFFFF : Word).extractLsb' 0 1 = (0x47000001 : Word).extractLsb' 0 1) ∧
      (code 0x52FFFFFD = code 0x52000001 ∧
        (0x52FFFFFD : Word).extractLsb' 0 2 = (0x52000001 : Word).extractLsb' 0 2) ∧
      (code 0x64FFF800 = code 0x6400F800 ∧
        (0x64FFF800 : Word).extractLsb' 0 16 = (0x6400F800 : Word).extractLsb' 0 16) ∧
      (code 0x65123456 = 0x65 ∧ code 0x42FFFFFF = 0x42 ∧ code 0x50FFFFFF = 0x50 ∧ code 0x51FFFFFF = 0x51) ∧
      (code 0x54FFFFFF = 0x54 ∧ (0xFFFF0007 : Word).extractLsb' 0 16 = (0x00000007 : Word).extractLsb' 0 16) ∧
      (code 0x60FF0000 = 0x60 ∧ code 0x61000000 = 0x61 ∧ code 0x62FF0000 = 0x62 ∧ code 0x63000000 = 0x63) ∧
      (code 0x66FFFFFF = 0x66 ∧ (0x00050007 : Word).extractLsb' 16 16 = 5) := by decide

/-- At the default widths, and a pointer and a length with every bit set at 16 and 12 bits. -/
theorem witness_StepRunsTheDecodedRequest :
    let s := given [.request ⟨0x54000000, 0x000000C8, 0x00000064, 0, 0⟩] ready
    let n := given [.request ⟨0x42000000, 0, 0, 0xFFFFFFFF, 0xFFFFFFFF⟩] narrow
    (s.mainLine = .free ∧ s.inputs = .request ⟨0x54000000, 0x000000C8, 0x00000064, 0, 0⟩ :: [] ∧
        s.cfg.ptrBits = 32 ∧ s.cfg.lenBits = 32 ∧
        decodeDescriptor ⟨0x54000000, 0x000000C8, 0x00000064, 0, 0⟩ = .ok (.setPartialArea 200 100)) ∧
      (n.mainLine = .free ∧ n.inputs = .request ⟨0x42000000, 0, 0, 0xFFFFFFFF, 0xFFFFFFFF⟩ :: [] ∧
        decodeDescriptor ⟨0x42000000, 0, 0, BitVec.ofNat 32 ((0xFFFFFFFF : Word).toNat % 2 ^ n.cfg.ptrBits),
            BitVec.ofNat 32 ((0xFFFFFFFF : Word).toNat % 2 ^ n.cfg.lenBits)⟩ =
          .ok (.writeDataBuffer 0xFFFF 0xFFF)) := by decide

theorem witness_StepRunsTheDecodedWireCommand :
    ({ ready with mainLine := .emitting (.wireMemoryAccessControl 0x48) } : State).mainLine =
        .emitting (.wireMemoryAccessControl 0x48) ∧
      decodeWire [0x36, 0x48] = .ok (.wireMemoryAccessControl 0x48) := by decide

theorem witness_EachOperationDeliversOneResponse :
    encode .isTransferBusy = .descriptor ⟨0x44000000, 0, 0, 0, 0⟩ ∧
      exec .isTransferBusy inFlight = .next (respond 1 inFlight) ∧
      exec .waitTransferIdle inFlight = .next { inFlight with mainLine := .waiting } ∧
      exec (.rgb565ToRgb666 0xFFFF) cold = .next (respond 0x0003FFFF cold) :=
  ⟨by decide, rfl, rfl, rfl⟩

theorem witness_InitializeBringsUpFailsOrIsIdempotent :
    let s := State.resetWith { vectorParams with transportInitOk := false }
    (ready.phase = .ready ∧ inFlight.phase = .ready) ∧
      (cold.phase ≠ .ready ∧ (0 : Word) = 0 ∧ s.phase ≠ .ready ∧ s.cfg.transportInitOk = false) ∧
      (cold.phase ≠ .ready ∧ (1 : Word) ≠ 0 ∧ cold.cfg.transportInitOk = true) := by decide

/-- The whole screen, one column too many, and the band's edges. -/
theorem witness_WindowCheckNormalisesAndRejects :
    let banded := { ready with partialOn := true, partY0 := 100, partY1 := 200 }
    windowCheck ready 319 0 0 479 = some ⟨0, 0, 319, 479⟩ ∧ windowCheck ready 0 0 320 0 = none ∧
      windowCheck ready 0 480 0 0 = none ∧ windowCheck banded 0 200 9 100 = some ⟨0, 100, 9, 200⟩ ∧
      windowCheck banded 0 99 9 100 = none ∧ windowCheck banded 0 200 9 201 = none := by decide

theorem witness_SetWindowSendsThreeCommands :
    (ready.phase = .ready ∧ windowCheck ready 319 479 319 479 = some ⟨319, 479, 319, 479⟩ ∧ ready.xfer = .idle) ∧
      windowCheck ready 0 0 320 0 = none ∧
      (inFlight.phase = .ready ∧ windowCheck inFlight 0 0 1 1 = some ⟨0, 0, 1, 1⟩ ∧ inFlight.xfer ≠ .idle) ∧
      cold.phase ≠ .ready := by decide

theorem witness_SetRotationAssignsSizeAndBand :
    (ready.phase = .ready ∧ ready.xfer = .idle) ∧ (inFlight.phase = .ready ∧ inFlight.xfer ≠ .idle) ∧
      cold.phase ≠ .ready := by decide

theorem witness_SetPartialModeSendsOneCommand :
    (ready.phase = .ready ∧ ready.xfer = .idle) ∧ (inFlight.phase = .ready ∧ inFlight.xfer ≠ .idle) ∧
      cold.phase ≠ .ready := by decide

theorem witness_SetPartialAreaClampsAndSends :
    ready.height ≠ 0 ∧ (ready.phase = .ready ∧ ready.xfer = .idle) ∧
      (inFlight.height ≠ 0 ∧ inFlight.phase = .ready ∧ inFlight.xfer ≠ .idle) ∧
      (cold.height ≠ 0 ∧ cold.phase ≠ .ready) := by decide

theorem witness_TeardownRestoresTheResetState :
    (ready.phase = .ready ∧ ready.xfer = .idle) ∧ (inFlight.phase = .ready ∧ inFlight.xfer ≠ .idle) ∧
      cold.phase ≠ .ready := by decide

/-- The last pixel of the screen, one column and one row outside, a row outside the band. -/
theorem witness_DrawPixelSendsOnePixelOrNothing :
    let banded := { ready with partialOn := true, partY0 := 100, partY1 := 200 }
    0 < ready.cfg.batchPixels.toNat ∧ (ready.phase = .ready ∧ inside ready 319 479 ∧ ready.xfer = .idle) ∧
      (¬inside ready 320 0 ∧ ¬inside ready 0 480 ∧ inside banded 0 200 ∧ ¬inside banded 0 201) ∧
      (inFlight.phase = .ready ∧ inside inFlight 0 0 ∧ inFlight.xfer ≠ .idle) ∧ cold.phase ≠ .ready := by decide

theorem witness_FillAreaStreamsOneColour :
    0 < small.cfg.batchPixels.toNat ∧
      (small.phase = .ready ∧ windowCheck small 3 5 1 5 = some ⟨1, 5, 3, 5⟩ ∧ small.xfer = .idle) ∧
      windowCheck small 0 0 4 0 = none ∧
      (inFlight.phase = .ready ∧ windowCheck inFlight 0 0 0 0 = some ⟨0, 0, 0, 0⟩ ∧ inFlight.xfer ≠ .idle) ∧
      cold.phase ≠ .ready := by decide

/-- Partial mode off, a band that is the whole height, a band one row short. -/
theorem witness_FillScreenFillsTheLogicalScreen :
    0 < ready.cfg.batchPixels.toNat ∧ ready.width ≠ 0 ∧ ready.height ≠ 0 ∧
      (ready.phase = .ready ∧ whole ready ∧ whole { ready with partialOn := true } ∧ ready.xfer = .idle) ∧
      ¬whole { ready with partialOn := true, partY1 := 478 } ∧
      (inFlight.phase = .ready ∧ whole inFlight ∧ inFlight.xfer ≠ .idle) ∧ cold.phase ≠ .ready := by decide

/-- Two elements that end at `2^32`, and one byte further; a shorter window whose used part still fits. -/
theorem witness_WritePixelsStreamsTheArray :
    0 < ready.cfg.batchPixels.toNat ∧ ready.phase = .ready ∧ (0xFFFFFFFC : Word) ≠ 0 ∧ (2 : Word) ≠ 0 ∧
      windowCheck ready 0 0 3 0 = some ⟨0, 0, 3, 0⟩ ∧
      ((0xFFFFFFFD : Word).toNat + 2 * min (2 : Word).toNat 4 > 2 ^ ready.cfg.ptrBits) ∧
      ((0xFFFFFFFC : Word).toNat + 2 * min (2 : Word).toNat 4 ≤ 2 ^ ready.cfg.ptrBits ∧ ready.xfer = .idle) ∧
      ((0x4000 : Word).toNat + 2 * min (2 : Word).toNat 4 ≤ 2 ^ ready.cfg.ptrBits ∧ inFlight.phase = .ready ∧ inFlight.xfer ≠ .idle ∧
        windowCheck inFlight 0 0 3 0 = some ⟨0, 0, 3, 0⟩) ∧
      windowCheck ready 0 0 320 0 = none ∧ cold.phase ≠ .ready := by decide

theorem witness_WritePixelsRgb24StreamsTheArray :
    0 < ready.cfg.batchPixels.toNat ∧ ready.phase = .ready ∧ (0xFFFFFFF8 : Word) ≠ 0 ∧ (2 : Word) ≠ 0 ∧
      windowCheck ready 0 0 3 0 = some ⟨0, 0, 3, 0⟩ ∧
      ((0xFFFFFFF9 : Word).toNat + 4 * min (2 : Word).toNat 4 > 2 ^ ready.cfg.ptrBits) ∧
      ((0xFFFFFFF8 : Word).toNat + 4 * min (2 : Word).toNat 4 ≤ 2 ^ ready.cfg.ptrBits ∧ ready.xfer = .idle) ∧
      ((0x5000 : Word).toNat + 4 * min (2 : Word).toNat 4 ≤ 2 ^ ready.cfg.ptrBits ∧ inFlight.phase = .ready ∧ inFlight.xfer ≠ .idle ∧
        windowCheck inFlight 0 0 3 0 = some ⟨0, 0, 3, 0⟩) ∧
      windowCheck ready 0 0 320 0 = none ∧ cold.phase ≠ .ready := by decide

theorem witness_PixelCountStaysInRange :
    sizeMatchesRotation ready ∧ windowCheck ready 0 0 319 479 = some ⟨0, 0, 319, 479⟩ := by
  unfold sizeMatchesRotation
  decide

theorem witness_FillsHaveTheirEventCount :
    0 < small.cfg.batchPixels.toNat ∧ small.phase = .ready ∧ small.xfer = .idle ∧
      windowCheck small 1 5 3 5 = some ⟨1, 5, 3, 5⟩ := by decide

theorem witness_FillPaintsExactlyItsWindow :
    0 < small.cfg.batchPixels.toNat ∧ small.phase = .ready ∧ small.xfer = .idle ∧
      windowCheck small 3 1 2 0 = some ⟨2, 0, 3, 1⟩ := by decide

/-- A fresh sink takes a window and one pixel, whatever its bounds and cursor held; a pixel past the window stops it. -/
theorem test_sink_one_cell :
    let window := [(Tag.command, (0x2A : Byte)), (.data, 0), (.data, 2), (.data, 0), (.data, 2), (.command, 0x2B),
      (.data, 0), (.data, 3), (.data, 0), (.data, 3), (.command, 0x2C), (.data, 1), (.data, 4), (.data, 5)]
    (Sink.fresh.feed window).toOption.map (fun k => (k.at 2 3, k.at 0 0, k.cx, k.cy)) =
        some (some (1, 4, 5), none, 2, 4) ∧
      (Sink.fresh.feed (window ++ [(.data, 1), (.data, 4), (.data, 5)])).toOption = none := by decide
/-- Memory-write before any bound puts the cursor at the bounds the sink holds, whatever they are. -/
theorem test_sink_memory_write_first :
    (Sink.fresh.feed [(.command, 0x2C)]).toOption.map (fun k => (k.mode, k.cx, k.cy)) =
      some (.mem, Sink.fresh.xs.toNat, Sink.fresh.ys.toNat) := rfl

theorem witness_WritePixelsLandsInRasterOrder :
    0 < small.cfg.batchPixels.toNat ∧ small.phase = .ready ∧ small.xfer = .idle ∧ (0xFFFFFFFC : Word) ≠ 0 ∧
      (2 : Word) ≠ 0 ∧ windowCheck small 3 1 2 0 = some ⟨2, 0, 3, 1⟩ ∧
      (0xFFFFFFFC : Word).toNat + 2 * min (2 : Word).toNat (Rect.mk 2 0 3 1).pixels ≤ 2 ^ small.cfg.ptrBits ∧
      (0xFFFFFFF8 : Word).toNat + 4 * min (2 : Word).toNat (Rect.mk 2 0 3 1).pixels ≤ 2 ^ small.cfg.ptrBits := by decide

theorem witness_WireCommandsAreDrivenAsEncoded : ready.xfer = .idle ∧ inFlight.xfer ≠ .idle := by decide

theorem witness_StepKeepsTheInvariant :
    Invariant inFlight ∧ step (given [] inFlight) = .next (drive (.tx 0x3F) { inFlight with dmaPos := 1 }) :=
  ⟨inFlight_invariant, rfl⟩

theorem witness_StepKeepsTheFraming :
    wellFramed ready ∧ wellFramed { inFlight with trace := [.cs .asserted, .dc .data] } ∧
      step ready = .next ready := by
  refine ⟨⟨⟨none, none⟩, rfl, by decide, by decide⟩, ⟨⟨some .asserted, some .data⟩, rfl, by decide, by decide⟩, rfl⟩

/-- Two idle states that differ in every unspecified register. -/
theorem witness_UnspecifiedValuesAreNeverRead :
    SameButUnspecified (given [.request ⟨0x44000000, 0, 0, 0, 0⟩] ready)
      (given [.request ⟨0x44000000, 0, 0, 0, 0⟩] { ready with
        dmaPtr := 7, dmaLen := 8, dmaPos := 9, cs := .asserted, dc := .data, rst := .low, bl := 10, batch := [1]
        seqState := .seqStream, seqRemaining := 11, seqIndex := 12, latch := ⟨1, 2, 3, 4, 5, 6, 7, 8⟩
        freeIndex := 13 }) where
  cfg := rfl
  phase := rfl
  width := rfl
  height := rfl
  rotation := rfl
  partialOn := rfl
  partY0 := rfl
  partY1 := rfl
  xfer := rfl
  dmaClaimed := rfl
  dma := by decide
  irqPending := rfl
  mainLine := rfl
  trace := rfl
  responses := rfl
  mem := rfl
  inputs := rfl

theorem witness_TraceOnlyGrows : step (given [.transferTurn] pending) = .next (takeCompletionInterrupt pending) := rfl

theorem witness_TheBlockNeverWritesHostMemory :
    exec .isTransferBusy inFlight = .next (respond 1 inFlight) ∧
      step (given [.hostWrite 0x3006 1] inFlight) =
        .next { inFlight with mem := [(0x3000, 0x3F), (0x3004, 0x3F), (0x3006, 1)] } ∧
      readByte [(0x3000, 0x3F), (0x3004, 0x3F), (0x3006, 1)] 0x3006 ≠ readByte inFlight.mem 0x3006 :=
  ⟨rfl, rfl, by decide⟩

theorem witness_EachFieldHasItsWriters :
    exec (.setBacklightBrightness 5) ready = .next (respond 0 (drive (.bl 5) ready)) ∧
      (respond 0 (drive (.bl 5) ready)).bl ≠ ready.bl :=
  ⟨rfl, by decide⟩

theorem witness_ReadyIsEnteredUprightAndLeftByTeardown :
    (after State.phase (exec (.initializeBlock 0x1000) cold) = some .ready ∧ cold.phase ≠ .ready) ∧
      (after State.phase (exec .teardown ready) = some .uninitialized ∧ ready.phase = .ready) := by decide

end Sys2Proof.Tests
end

section
/-! Reset (10_state.md R36): what each field holds after reset, first the fields with one value for every
configuration, then the panel-dependent ones, then the instance of 00_scope.md R5. -/

namespace Sys2Proof.Machine

/-- The fields whose reset value is the same for every configuration (10_state.md R36). -/
@[simp] theorem State.resetWith_constant (cfg : Params) :
    (State.resetWith cfg).phase = .uninitialized ∧ (State.resetWith cfg).xfer = .idle ∧
      (State.resetWith cfg).rotation = 0 ∧ (State.resetWith cfg).partialOn = false ∧
      (State.resetWith cfg).partY0 = 0 ∧ (State.resetWith cfg).dmaClaimed = false ∧
      (State.resetWith cfg).irqPending = false ∧ (State.resetWith cfg).seqState = .seqIdle ∧
      (State.resetWith cfg).trace = [] :=
  ⟨rfl, rfl, rfl, rfl, rfl, rfl, rfl, rfl, rfl⟩

/-- The fields whose reset value is read off the panel: upright, and the band the whole panel (10_state.md R36). -/
@[simp] theorem State.resetWith_panel (cfg : Params) :
    (State.resetWith cfg).width = cfg.panelW ∧ (State.resetWith cfg).height = cfg.panelH ∧
      (State.resetWith cfg).partY1 = cfg.panelH - 1 :=
  ⟨rfl, rfl, rfl⟩

/-- The panel of the instance (00_scope.md R5). -/
@[simp] theorem params_panel : Config.params.panelW = 320 ∧ Config.params.panelH = 480 := ⟨rfl, rfl⟩

/-- The panel-dependent reset values of the instance, as numbers (10_state.md R36). -/
@[simp] theorem State.reset_panel :
    State.reset.width = 320 ∧ State.reset.height = 480 ∧ State.reset.partY1 = 479 := by
  simp [State.reset]

/-- Settles O49: the values common to every configuration, with those of the panel for the instance and in general. -/
theorem resetHoldsTheStatedValues : Obligations.ResetHoldsTheStatedValues := by
  obtain ⟨hphase, hxfer, hrotation, hpartialOn, hpartY0, hdmaClaimed, hirqPending, hseqState, htrace⟩ :=
    State.resetWith_constant Config.params
  obtain ⟨hwidth, hheight, hpartY1⟩ := State.reset_panel
  exact ⟨hphase, hxfer, hrotation, hwidth, hheight, hpartialOn, hpartY0, hpartY1, hdmaClaimed, hirqPending,
    hseqState, htrace, State.resetWith_panel⟩

end Sys2Proof.Machine
end

section
/-! The descriptor's fields and the codes of the operation table (30_encoding.md R70 to R76): each field of the operand
latch in terms of the descriptor's words, the codes the decoder knows, and the step that meets any other code. -/

namespace Sys2Proof

/-! What a descriptor's latch holds, the sub-fields of the immediate as bits of `W0` (30_encoding.md R70, R72). -/

@[simp] theorem Descriptor.operands_code (d : Descriptor) : d.operands.code = d.w0.extractLsb' 24 8 := rfl
@[simp] theorem Descriptor.operands_x0 (d : Descriptor) : d.operands.x0 = d.w1.extractLsb' 16 16 := rfl
@[simp] theorem Descriptor.operands_y0 (d : Descriptor) : d.operands.y0 = d.w1.extractLsb' 0 16 := rfl
@[simp] theorem Descriptor.operands_x1 (d : Descriptor) : d.operands.x1 = d.w2.extractLsb' 16 16 := rfl
@[simp] theorem Descriptor.operands_y1 (d : Descriptor) : d.operands.y1 = d.w2.extractLsb' 0 16 := rfl
@[simp] theorem Descriptor.operands_ptr (d : Descriptor) : d.operands.ptr = d.w3 := rfl
@[simp] theorem Descriptor.operands_len (d : Descriptor) : d.operands.len = d.w4 := rfl
@[simp] theorem Descriptor.operands_immByte (d : Descriptor) : d.operands.immByte = d.w0.extractLsb' 0 8 :=
  BitVec.extractLsb'_extractLsb'_of_le (by decide)
/-- The flag is the one bit of the sub-field `imm[0]`. -/
@[simp] theorem Descriptor.operands_immFlag (d : Descriptor) :
    d.operands.immFlag = (d.w0.extractLsb' 0 1).getLsbD 0 := by
  simp [OperandLatch.immFlag, Descriptor.operands]
@[simp] theorem Descriptor.operands_immRot (d : Descriptor) : d.operands.immRot = d.w0.extractLsb' 0 2 :=
  BitVec.extractLsb'_extractLsb'_of_le (by decide)
@[simp] theorem Descriptor.operands_imm565 (d : Descriptor) : d.operands.imm565 = d.w0.extractLsb' 0 16 :=
  BitVec.extractLsb'_extractLsb'_of_le (by decide)
@[simp] theorem Descriptor.operands_imm888 (d : Descriptor) : d.operands.imm888 = d.w0.extractLsb' 0 24 := rfl

/-- The operation codes of the table (30_encoding.md R74). -/
def hostCodes : List Byte :=
  [0x40, 0x41, 0x42, 0x43, 0x44, 0x45, 0x46, 0x47, 0x48, 0x50, 0x51, 0x52, 0x53, 0x54, 0x55, 0x5F, 0x60, 0x61,
    0x62, 0x63, 0x64, 0x65, 0x66, 0x67, 0x70, 0x71]

/-- The decoder has an arm for a code of the table only: any other is refused by name (30_encoding.md R75). -/
theorem decodeOperands_illegalCode {op : OperandLatch} (h : op.code ∉ hostCodes) :
    decodeOperands op = .error (.illegalCode op.code) := by
  have hn : op.code.toNat ∉ hostCodes.map BitVec.toNat := by
    rwa [List.mem_map_of_injective fun _ _ => BitVec.eq_of_toNat_eq]
  unfold decodeOperands
  split
  case h_27 => rfl -- the arm for every other code
  all_goals
    next hcode =>
      rw [hcode] at hn
      exact absurd (by decide) hn

/-- Settles O3: both descriptors take the decoder's arm of their common code, and that arm reads only the fields that
the clause assumes equal. One clause per format of 30_encoding.md R71 and sub-field of R72. -/
theorem unusedDescriptorFieldsAreIgnored : Obligations.UnusedDescriptorFieldsAreIgnored := by
  intro d e code hd he
  simp only [decodeDescriptor, decodeOperands, Descriptor.operands_code, hd, he, List.mem_cons, List.not_mem_nil,
    or_false]
  refine ⟨?none, ?byte, ?flag, ?rot, ?c565, ?c888, ?buffer, ?ptr, ?rect, ?rows, ?pixel565, ?pixel888, ?fill565,
    ?fill888, ?array⟩
  case none => rintro (rfl | rfl | rfl | rfl) <;> rfl
  case byte => rintro (rfl | rfl | rfl) hbyte <;> simp [hbyte]
  case flag => rintro (rfl | rfl) hflag <;> simp [hflag]
  case rot => rintro rfl hrot; simp [hrot]
  case c565 => rintro (rfl | rfl) hc565 <;> simp [hc565]
  case c888 => rintro (rfl | rfl) hc888 <;> simp [hc888]
  case buffer => rintro (rfl | rfl | rfl) ⟨hptr, hlen⟩ <;> simp [hptr, hlen]
  case ptr => rintro rfl hptr; simp [hptr]
  case rect => rintro rfl ⟨hx0, hy0, hx1, hy1⟩; simp [hx0, hy0, hx1, hy1]
  case rows => rintro rfl hy0 hy1; simp [hy0, hy1]
  case pixel565 => rintro rfl hx hy hc565; simp [hx, hy, hc565]
  case pixel888 => rintro rfl hx hy hc888; simp [hx, hy, hc888]
  case fill565 => rintro rfl ⟨hx0, hy0, hx1, hy1⟩ hc565; simp [hx0, hy0, hx1, hy1, hc565]
  case fill888 => rintro rfl ⟨hx0, hy0, hx1, hy1⟩ hc888; simp [hx0, hy0, hx1, hy1, hc888]
  case array =>
    rintro (rfl | rfl) ⟨hx0, hy0, hx1, hy1⟩ ⟨hptr, hlen⟩ <;> simp [hx0, hy0, hx1, hy1, hptr, hlen]

end Sys2Proof

namespace Sys2Proof.Machine

/-- A request that the decoder refuses leaves the port and is answered with the illegal result, no more
(30_encoding.md R75). -/
theorem step_of_refused_request {s : State} {d : Descriptor} {rest : List Input} {e : DecodeError}
    (hfree : s.mainLine = .free) (hin : s.inputs = .request d :: rest)
    (hrefused : decodeDescriptor (d.taken s.cfg.ptrBits s.cfg.lenBits) = .error e) :
    step s = .next (respond illegalResult { s with inputs := rest }) := by
  simp [step, fetch_stimulus (.inl hfree), fetchStimulus, hin, hfree, fetchRequest, hrefused]

/-- Settles O4: the port's widths cut `W3` and `W4` only, so the code the decoder sees is the one in `W0`. -/
theorem illegalCodesAreAnsweredWithoutEffect : Obligations.IllegalCodesAreAnsweredWithoutEffect := by
  intro s d rest hfree hin hcode
  have htaken : (d.taken s.cfg.ptrBits s.cfg.lenBits).operands.code ∉ hostCodes := by
    rwa [Descriptor.operands_code, (Descriptor.taken_words _ _ d).1]
  exact step_of_refused_request hfree hin (decodeOperands_illegalCode htaken)

end Sys2Proof.Machine
end

section
/-! The synchronous Transport operations (40_transport.md R102, R103, R106 to R108): an operation behind the phase guard
ends as its run ends, and the runs are those of the shared frame and reset pulse. -/

namespace Sys2Proof.Machine

/-- A guarded operation whose run ends well delivers its response (42_addressing.md R140, 00_scope.md R10). -/
theorem whenReady_conclude_ok {s u : State} {r : Except Fault State} (hready : s.phase = .ready) (hr : r = .ok u)
    (v : Word) : whenReady s (conclude v r) = .next (respond v u) := by
  rw [whenReady_ready hready, hr, conclude_ok]

/-- A guarded operation whose run stops, stops with the run's outcome (42_addressing.md R140, 00_scope.md R10). -/
theorem whenReady_conclude_error {s : State} {r : Except Fault State} {k : Fault} (hready : s.phase = .ready)
    (hr : r = .error k) (v : Word) : whenReady s (conclude v r) = .fault k := by
  rw [whenReady_ready hready, hr, conclude_error]

theorem resetPulse_busy {s : State} (h : s.xfer ≠ .idle) : resetPulse s = .error .busConflict := if_neg h

/-- Settles O8: the guard, then one command frame on an idle bus and `BusConflict` on a busy one. -/
theorem writeCommandFramesItsByte : Obligations.WriteCommandFramesItsByte := fun byte _ =>
  ⟨fun hready hidle => whenReady_conclude_ok hready (frame_idle .command [byte] hidle) noResult,
    fun hready hbusy => whenReady_conclude_error hready (frame_busy .command [byte] hbusy) noResult,
    fun hready => whenReady_notReady hready _⟩

/-- Settles O9: as O8, with a data frame. -/
theorem writeDataFramesItsByte : Obligations.WriteDataFramesItsByte := fun byte _ =>
  ⟨fun hready hidle => whenReady_conclude_ok hready (frame_idle .data [byte] hidle) noResult,
    fun hready hbusy => whenReady_conclude_error hready (frame_busy .data [byte] hbusy) noResult,
    fun hready => whenReady_notReady hready _⟩

/-- Settles O12: the guard, then the reset pulse on an idle bus and `BusConflict` on a busy one. -/
theorem resetDrivesThePulse : Obligations.ResetDrivesThePulse := fun _ =>
  ⟨fun hready hidle => whenReady_conclude_ok hready (resetPulse_idle hidle) noResult,
    fun hready hbusy => whenReady_conclude_error hready (resetPulse_busy hbusy) noResult,
    fun hready => whenReady_notReady hready _⟩

/-- Settles O13: behind the guard stands one drive of the level, with no test of `S.xfer`. -/
theorem backlightIsDrivenInAnyTransferState : Obligations.BacklightIsDrivenInAnyTransferState := by
  intro flag level s iv hiv
  simp only [List.mem_cons, List.not_mem_nil, or_false] at hiv
  rcases hiv with rfl | rfl <;>
    exact ⟨fun hready => whenReady_conclude_ok hready rfl noResult, fun hready => whenReady_notReady hready _⟩

end Sys2Proof.Machine
end

section
/-! Chunking (40_transport.md R105). The pieces of a buffer are neither empty nor too long. That no outcome shows the
chunk size is a commuting diagram: giving the state another chunk size commutes with every update of the state, with
every operation that can stop, and so with the meaning of every instruction. -/

namespace Sys2Proof.Machine

/-- Each cut takes at least one byte and at most the chunk size (40_transport.md R105). -/
theorem length_of_mem_piecesFrom {chunk : Nat} (hc : 0 < chunk) {fuel : Nat} {bytes piece : List Byte}
    (h : piece ∈ piecesFrom chunk fuel bytes) : 0 < piece.length ∧ piece.length ≤ chunk := by
  induction fuel generalizing bytes with
  | zero => cases h
  | succ fuel ih =>
    cases bytes with
    | nil => cases h
    | cons b bytes =>
      rcases List.mem_cons.mp h with rfl | h
      · simp only [List.length_take, List.length_cons]
        omega
      · exact ih h

theorem length_of_mem_pieces {chunk : Nat} (hc : 0 < chunk) {bytes piece : List Byte}
    (h : piece ∈ pieces chunk bytes) : 0 < piece.length ∧ piece.length ≤ chunk := by
  rw [pieces, if_neg hc.ne'] at h
  exact length_of_mem_piecesFrom hc h

/-- The state with another chunk size. -/
def rechunk (chunk : Word) (s : State) : State := { s with cfg := { s.cfg with chunkBytes := chunk } }

/-- The outcome with another chunk size in its state. -/
def rechunkOutcome (chunk : Word) : Host.Outcome State Fault Refusal → Host.Outcome State Fault Refusal
  | .next s => .next (rechunk chunk s)
  | .fault f => .fault f
  | .refused r => .refused r

/-- An operation does not look at the chunk size: its end is the same whatever that is, but for the parameter itself. -/
def ChunkBlind (chunk : Word) (op : State → Except Fault State) : Prop :=
  Function.Semiconj op (rechunk chunk) (Except.map (rechunk chunk))

/-- The same of the meaning of an instruction. -/
def ChunkBlindMeaning (chunk : Word) (m : State → Host.Outcome State Fault Refusal) : Prop :=
  Function.Semiconj m (rechunk chunk) (rechunkOutcome chunk)

section
variable {chunk : Word} {op op' : State → Except Fault State} {f : State → State}

/-! How blindness is built up: an update, an operation after an update, two operations in a row; an operation that
concludes, behind the phase guard or not. -/

theorem ChunkBlind.ok (hf : Function.Commute f (rechunk chunk)) : ChunkBlind chunk fun s => .ok (f s) :=
  fun s => congrArg Except.ok (hf s)

theorem ChunkBlind.after (hop : ChunkBlind chunk op) (hf : Function.Commute f (rechunk chunk)) :
    ChunkBlind chunk fun s => op (f s) :=
  fun s => (congrArg op (hf s)).trans (hop (f s))

theorem ChunkBlind.bind (hop : ChunkBlind chunk op) (hop' : ChunkBlind chunk op') :
    ChunkBlind chunk fun s => op s >>= op' := by
  intro s
  simp only [hop s]
  cases op s with
  | ok u => exact hop' u
  | error k => rfl

theorem ChunkBlind.concluded (hop : ChunkBlind chunk op) (v : Word) :
    ChunkBlindMeaning chunk fun s => conclude v (op s) := by
  intro s
  simp only [hop s]
  cases op s <;> rfl

theorem ChunkBlindMeaning.guarded {m : State → Host.Outcome State Fault Refusal} (hm : ChunkBlindMeaning chunk m) :
    ChunkBlindMeaning chunk fun s => whenReady s (m s) := by
  intro s
  by_cases hready : s.phase = .ready
  · simp only [whenReady_ready hready, whenReady_ready (s := rechunk chunk s) hready, hm s]
  · simp only [whenReady_notReady hready, whenReady_notReady (s := rechunk chunk s) hready]
    rfl

theorem ChunkBlind.guarded (hop : ChunkBlind chunk op) (v : Word) :
    ChunkBlindMeaning chunk fun s => whenReady s (conclude v (op s)) :=
  (hop.concluded v).guarded

end

section
variable (chunk : Word)

/-! The shared operations of 40_transport.md, 42_addressing.md and 44_drawing.md are blind to the chunk size. -/

theorem frame_chunkBlind (t : Tag) (bytes : List Byte) : ChunkBlind chunk (frame t bytes) := by
  intro s
  by_cases hidle : s.xfer = .idle
  · rw [frame_idle t bytes hidle, frame_idle (s := rechunk chunk s) t bytes hidle]
    rfl
  · rw [frame_busy t bytes hidle, frame_busy (s := rechunk chunk s) t bytes hidle]
    rfl

theorem sendCmd_chunkBlind (c : Byte) (params : List Byte) : ChunkBlind chunk (sendCmd c params) := by
  refine (frame_chunkBlind chunk .command [c]).bind ?_
  by_cases hparams : params = []
  · simp only [if_pos hparams]
    exact .ok (f := id) fun _ => rfl
  · simpa only [if_neg hparams] using frame_chunkBlind chunk .data params

theorem resetPulse_chunkBlind : ChunkBlind chunk resetPulse := by
  intro s
  by_cases hidle : s.xfer = .idle
  · rw [resetPulse_idle hidle, resetPulse_idle (s := rechunk chunk s) hidle]
    rfl
  · rw [resetPulse_busy hidle, resetPulse_busy (s := rechunk chunk s) hidle]
    rfl

theorem bringUp_chunkBlind : ChunkBlind chunk bringUp := by
  intro s
  rw [bringUp_eq, bringUp_eq]
  rfl

theorem emitWindow_chunkBlind (w : Rect) : ChunkBlind chunk (emitWindow w) :=
  (sendCmd_chunkBlind chunk _ _).bind ((sendCmd_chunkBlind chunk _ _).bind (sendCmd_chunkBlind chunk _ _))

theorem streamBatch_chunkBlind (k : Nat) : ChunkBlind chunk (streamBatch k) :=
  fun s => frame_chunkBlind chunk .data (s.batch.take (3 * k)) (enterSeq .seqStream s)

theorem fillLoop_chunkBlind (fuel remaining : Nat) : ChunkBlind chunk (fillLoop fuel remaining) := by
  induction fuel generalizing remaining with
  | zero => exact fun _ => rfl
  | succ fuel ih =>
    intro s
    by_cases hdone : remaining = 0
    · simp only [fillLoop, if_pos hdone]
      rfl
    · have hpass (k : Nat) := (streamBatch_chunkBlind chunk k).bind
        ((ih (remaining - k)).after (f := setRemaining (remaining - k)) fun _ => rfl)
      simp only [fillLoop, if_neg hdone]
      exact hpass (min remaining s.cfg.batchPixels.toNat) s

theorem streamFill_chunkBlind (n : Nat) (p : List Byte) : ChunkBlind chunk (streamFill n p) :=
  fun s => fillLoop_chunkBlind chunk n n
    (setRemaining n (primeBatch (List.replicate (min n s.cfg.batchPixels.toNat) p).flatten s))

theorem pixelLoop_chunkBlind (n : Nat) (pixel : Nat → List Byte) (fuel i : Nat) :
    ChunkBlind chunk (pixelLoop n pixel fuel i) := by
  induction fuel generalizing i with
  | zero => exact fun _ => rfl
  | succ fuel ih =>
    intro s
    by_cases hdone : n ≤ i
    · simp only [pixelLoop, if_pos hdone]
      rfl
    · have hpass (k : Nat) := ((streamBatch_chunkBlind chunk k).after
        (f := primeBatch ((List.range k).flatMap fun j => pixel (i + j))) fun _ => rfl).bind
        ((ih (i + k)).after (f := fun s => setIndex (i + k) (setRemaining (n - (i + k)) s)) fun _ => rfl)
      simp only [pixelLoop, if_neg hdone]
      exact hpass (min (n - i) s.cfg.batchPixels.toNat) s

theorem streamPixels_chunkBlind (n : Nat) (f : ArrayFormat) (base len : Word) :
    ChunkBlind chunk (streamPixels n f base len) :=
  fun s => pixelLoop_chunkBlind chunk n (fun q => f.pixel s.mem base.toNat (q % len.toNat)) n 0
    (setIndex 0 (setRemaining n s))

theorem drawWindow_chunkBlind (w : Rect) {stream : State → Except Fault State} (hstream : ChunkBlind chunk stream) :
    ChunkBlind chunk (drawWindow w stream) :=
  ((emitWindow_chunkBlind chunk w).after (f := enterSeq .seqWindow) fun _ => rfl).bind
    (hstream.bind (.ok (f := endSequence) fun _ => rfl))

/-- A check of the window in front of an operation reads the size and the band, not the chunk size. -/
theorem windowed_chunkBlind (x0 y0 x1 y1 : Half) {op : Rect → State → Except Fault State}
    (hop : ∀ w, ChunkBlind chunk (op w)) :
    ChunkBlind chunk fun s =>
      match windowCheck s x0 y0 x1 y1 with
      | none => .ok s
      | some w => op w s := by
  intro s
  have hcheck : windowCheck (rechunk chunk s) x0 y0 x1 y1 = windowCheck s x0 y0 x1 y1 := rfl
  simp only [hcheck]
  cases windowCheck s x0 y0 x1 y1 with
  | none => rfl
  | some w => exact hop w s

theorem fillRect_chunkBlind (x0 y0 x1 y1 : Half) (p : List Byte) : ChunkBlind chunk (fillRect x0 y0 x1 y1 p) :=
  windowed_chunkBlind chunk x0 y0 x1 y1 fun w => drawWindow_chunkBlind chunk w (streamFill_chunkBlind chunk _ p)

theorem writeRect_chunkBlind (f : ArrayFormat) (x0 y0 x1 y1 : Half) (ptr len : Word) :
    ChunkBlind chunk (writeRect f x0 y0 x1 y1 ptr len) := by
  by_cases hnone : ptr = 0 ∨ len = 0
  · intro s
    simp only [writeRect, if_pos hnone]
    rfl
  · have hdraw := windowed_chunkBlind chunk x0 y0 x1 y1
      (op := fun w s =>
        if ptr.toNat + f.elementBytes * min len.toNat w.pixels > addressSpace s.cfg then .error .badRange
        else drawWindow w (streamPixels w.pixels f ptr len) s) fun w s => by
        have hspace : addressSpace (rechunk chunk s).cfg = addressSpace s.cfg := rfl
        simp only [hspace]
        split
        · rfl
        · exact drawWindow_chunkBlind chunk w (streamPixels_chunkBlind chunk _ f ptr len) s
    intro s
    simp only [writeRect, if_neg hnone]
    exact hdraw s

theorem bufferFrame_chunkBlind (bytes : List Byte) : ChunkBlind chunk (bufferFrame bytes) := by
  intro s
  simp only [bufferFrame_eq_frame]
  exact frame_chunkBlind chunk .data bytes s

theorem startDma_rechunk (ptr len : Word) (s : State) :
    startDma ptr len (rechunk chunk s) = (rechunk chunk (startDma ptr len s).1, (startDma ptr len s).2) := by
  have htests : dmaStarts ptr len (rechunk chunk s) = dmaStarts ptr len s := rfl
  unfold startDma
  rw [htests]
  split <;> rfl

/-! The meanings that are more than one of these operations behind the guard. -/

theorem runWire_chunkBlind (c : Byte) (params : List Byte) : ChunkBlindMeaning chunk (runWire c params) := by
  intro s
  simp only [runWire, sendCmd_chunkBlind chunk c params s]
  cases sendCmd c params s <;> rfl

theorem execWriteDataBuffer_chunkBlind (ptr len : Word) : ChunkBlindMeaning chunk (execWriteDataBuffer ptr len) := by
  refine ChunkBlind.guarded (op := fun s =>
    if validRange s.cfg ptr len then bufferFrame (readRange s.mem ptr.toNat len.toNat) s else .ok s)
    (fun s => ?_) noResult
  have hvalid : validRange (rechunk chunk s).cfg ptr len = validRange s.cfg ptr len := rfl
  simp only [hvalid]
  split
  · exact bufferFrame_chunkBlind chunk (readRange s.mem ptr.toNat len.toNat) s
  · rfl

theorem execWriteDataDMA_chunkBlind (ptr len : Word) : ChunkBlindMeaning chunk (execWriteDataDMA ptr len) :=
  ChunkBlindMeaning.guarded fun s => by
    simp only [startDma_rechunk]
    rfl

theorem execWriteDMA_chunkBlind (ptr len : Word) : ChunkBlindMeaning chunk (execWriteDMA ptr len) :=
  ChunkBlindMeaning.guarded fun s => by
    have hdc : drive (.dc .data) (rechunk chunk s) = rechunk chunk (drive (.dc .data) s) := rfl
    simp only [hdc, startDma_rechunk]
    rfl

theorem execWaitTransferIdle_chunkBlind : ChunkBlindMeaning chunk execWaitTransferIdle :=
  ChunkBlindMeaning.guarded fun s => by
    have hbusy : (rechunk chunk s).busy = s.busy := rfl
    simp only [hbusy]
    split <;> rfl

theorem execTeardown_chunkBlind : ChunkBlindMeaning chunk execTeardown := by
  refine ChunkBlind.guarded (op := fun s => if s.xfer = .idle then .ok (releaseBlock s) else .error .busConflict)
    (fun s => ?_) noResult
  have hxfer : (rechunk chunk s).xfer = s.xfer := rfl
  simp only [hxfer]
  split <;> rfl

theorem execInitializeBlock_chunkBlind (ptr : Word) : ChunkBlindMeaning chunk (execInitializeBlock ptr) := by
  intro s
  have hphase : (rechunk chunk s).phase = s.phase := rfl
  have hinit : (rechunk chunk s).cfg.transportInitOk = s.cfg.transportInitOk := rfl
  simp only [execInitializeBlock, hphase, hinit]
  split
  · rfl
  · split
    · rfl
    · exact (bringUp_chunkBlind chunk).concluded (boolResult true) s

/-- No instruction's outcome shows the chunk size (40_transport.md R105). -/
theorem exec_chunkBlind (i : Instr) : ChunkBlindMeaning chunk (exec i) := by
  cases i with
  | writeCommand byte => exact (frame_chunkBlind chunk .command [byte]).guarded noResult
  | writeData byte => exact (frame_chunkBlind chunk .data [byte]).guarded noResult
  | writeDataBuffer ptr len => exact execWriteDataBuffer_chunkBlind chunk ptr len
  | writeDataDMA ptr len => exact execWriteDataDMA_chunkBlind chunk ptr len
  | isTransferBusy => exact ChunkBlindMeaning.guarded fun _ => rfl
  | waitTransferIdle => exact execWaitTransferIdle_chunkBlind chunk
  | reset => exact (resetPulse_chunkBlind chunk).guarded noResult
  | setBacklight flag =>
    exact ChunkBlind.guarded (.ok (f := drive (.bl (if flag then 255 else 0))) fun _ => rfl) noResult
  | setBacklightBrightness level => exact ChunkBlind.guarded (.ok (f := drive (.bl level)) fun _ => rfl) noResult
  | initializeBlock ptr => exact execInitializeBlock_chunkBlind chunk ptr
  | setWindow x0 y0 x1 y1 =>
    exact (windowed_chunkBlind chunk x0 y0 x1 y1 (emitWindow_chunkBlind chunk)).guarded noResult
  | setRotation rot =>
    exact ChunkBlind.guarded
      (fun s => sendCmd_chunkBlind chunk 0x36 [s.cfg.rotTable[rot.toFin]] (rotate rot s)) noResult
  | setPartialMode flag =>
    exact ChunkBlind.guarded
      (fun s => sendCmd_chunkBlind chunk (if flag then 0x12 else 0x13) [] { s with partialOn := flag }) noResult
  | setPartialArea y0 y1 =>
    exact ChunkBlind.guarded
      (fun s => sendCmd_chunkBlind chunk 0x30 (bigEndian (bandOf y0 y1 s).1 ++ bigEndian (bandOf y0 y1 s).2)
        { s with partY0 := (bandOf y0 y1 s).1, partY1 := (bandOf y0 y1 s).2 }) noResult
  | writeDMA ptr len => exact execWriteDMA_chunkBlind chunk ptr len
  | teardown => exact execTeardown_chunkBlind chunk
  | drawPixel x y c565 => exact (fillRect_chunkBlind chunk x y x y (pix565 c565)).guarded noResult
  | drawPixelRGB24 x y c888 => exact (fillRect_chunkBlind chunk x y x y (pix888 c888)).guarded noResult
  | fillArea x0 y0 x1 y1 c565 => exact (fillRect_chunkBlind chunk x0 y0 x1 y1 (pix565 c565)).guarded noResult
  | fillAreaRGB24 x0 y0 x1 y1 c888 => exact (fillRect_chunkBlind chunk x0 y0 x1 y1 (pix888 c888)).guarded noResult
  | fillScreen c565 =>
    exact ChunkBlind.guarded
      (fun s => fillRect_chunkBlind chunk 0 0 (s.width - 1) (s.height - 1) (pix565 c565) s) noResult
  | fillScreenRGB24 c888 =>
    exact ChunkBlind.guarded
      (fun s => fillRect_chunkBlind chunk 0 0 (s.width - 1) (s.height - 1) (pix888 c888) s) noResult
  | writePixels x0 y0 x1 y1 ptr len =>
    exact (writeRect_chunkBlind chunk .rgb565 x0 y0 x1 y1 ptr len).guarded noResult
  | writePixelsRGB24 x0 y0 x1 y1 ptr len =>
    exact (writeRect_chunkBlind chunk .rgb888 x0 y0 x1 y1 ptr len).guarded noResult
  | rgb565ToRgb666 c565 => exact fun _ => rfl
  | rgb888ToRgb666 c888 => exact fun _ => rfl
  | wireReset | wireSleepOut | wirePartialModeOn | wireNormalModeOn | wireDisplayInvertOn | wireDisplayOn
  | wireColumnAddressSet _ _ | wireRowAddressSet _ _ | wireMemoryWrite | wirePartialArea _ _
  | wireMemoryAccessControl _ | wirePixelFormat _ => exact runWire_chunkBlind chunk _ _

end

/-- Settles O11: the bounds on the pieces, and blindness of every meaning; a chunk size of 0 would do no harm. -/
theorem chunkingIsInvisible : Obligations.ChunkingIsInvisible :=
  ⟨fun chunk bytes hc => ⟨pieces_flatten chunk bytes, fun _ => length_of_mem_pieces hc⟩,
    fun i s chunk _ _ => (exec_chunkBlind chunk i s).trans (by cases exec i s <;> rfl)⟩

end Sys2Proof.Machine
end

section
/-! The DMA path (41_dma.md R121, R123, R124): the busy flag as a response, and a turn of the agents beside the main
line, taken apart into the fetch that grants it, the agent that moves, and what its move does. -/

namespace Sys2Proof.Machine

/-- The response word of the busy flag (30_encoding.md R73, 41_dma.md R121). -/
theorem boolResult_busy (s : State) : boolResult s.busy = if s.xfer = .idle then 0 else 1 := by
  by_cases hidle : s.xfer = .idle
  · simp [State.busy, boolResult, hidle]
  · have hbusy : s.busy = true := bne_iff_ne.mpr hidle
    simp [boolResult, hbusy, hidle]

/-- A turn given to the agents beside the main line leaves the port and goes to them, while the main line is free or
held by a transfer (41_dma.md R122, 60_exceptions.md R221). -/
theorem step_of_transferTurn {s : State} {rest : List Input}
    (hline : s.mainLine = .free ∨ (s.mainLine = .waiting ∧ s.xfer ≠ .idle)) (hin : s.inputs = .transferTurn :: rest) :
    step s = transferStep { s with inputs := rest } := by
  simp [step, fetch_stimulus hline, fetchStimulus, hin]

/-- With bytes still to send and no interrupt pending, the agent that moves is `DmaBeat` (41_dma.md R123). -/
theorem transferStep_eq_dmaBeat {s : State} (hirq : s.irqPending = false) (hflight : s.xfer = .inFlight)
    (hpos : s.dmaPos < s.dmaLen) : transferStep s = dmaBeat s := by
  rcases transferStep_cases s with ⟨hpending, _⟩ | ⟨_, _, _, hbeat⟩ | ⟨_, _, hend, _⟩ | ⟨_, hnone, _⟩
  · simp [hirq] at hpending
  · exact hbeat
  · exact absurd (hend ▸ hpos) (BitVec.lt_irrefl _)
  · exact absurd ⟨hflight, BitVec.le_of_lt hpos⟩ hnone

/-- With every byte out and no interrupt pending, the agent that moves is `DmaDone` (41_dma.md R124). -/
theorem transferStep_eq_dmaDone {s : State} (hirq : s.irqPending = false) (hflight : s.xfer = .inFlight)
    (hend : s.dmaPos = s.dmaLen) : transferStep s = .next (dmaDone s) := by
  rcases transferStep_cases s with ⟨hpending, _⟩ | ⟨_, _, hpos, _⟩ | ⟨_, _, _, hdone⟩ | ⟨_, hnone, _⟩
  · simp [hirq] at hpending
  · exact absurd (hend ▸ hpos) (BitVec.lt_irrefl _)
  · exact hdone
  · exact absurd ⟨hflight, BitVec.le_of_eq hend⟩ hnone

/-- While bytes are still to be sent no interrupt is pending (10_state.md R37 (d)). -/
theorem interruptSound.irqPending_eq_false {s : State} (hsound : interruptSound s) (hpos : s.dmaPos < s.dmaLen) :
    s.irqPending = false := by
  by_contra hpending
  obtain ⟨_, hend⟩ := hsound (by simpa using hpending)
  exact BitVec.lt_irrefl _ (hend ▸ hpos)

/-- The next byte of a transfer lies in the address space: the buffer does, and the byte is before its end
(10_state.md R37 (e), 41_dma.md R120). -/
theorem transferSound.next_byte_inside {s : State} (hsound : transferSound s) (hflight : s.xfer = .inFlight)
    (hpos : s.dmaPos < s.dmaLen) : s.dmaPtr.toNat + s.dmaPos.toNat < addressSpace s.cfg := by
  obtain ⟨_, _, _, _, _, _, hvalid⟩ := hsound (by simp [hflight])
  obtain ⟨_, _, hrange⟩ := validRange_iff.mp hvalid
  have hbefore : s.dmaPos.toNat < s.dmaLen.toNat := hpos
  omega

/-- What `DmaBeat` does where the byte it reads has an address (41_dma.md R123). -/
theorem dmaBeat_inside {s : State} (h : s.dmaPtr.toNat + s.dmaPos.toNat < addressSpace s.cfg) :
    dmaBeat s = .next { s with
      trace := s.trace ++ [.tx (readByte s.mem (s.dmaPtr.toNat + s.dmaPos.toNat))], dmaPos := s.dmaPos + 1 } :=
  if_pos h

/-- Settles O17: a sound transfer with bytes left has no interrupt pending, so the turn is the beat's, and the byte it
reads lies in the address space. -/
theorem dmaBeatClocksTheNextByte : Obligations.DmaBeatClocksTheNextByte := by
  intro s rest hinterrupt htransfer hline hin hflight hpos
  have hirq := hinterrupt.irqPending_eq_false hpos
  have hinside := htransfer.next_byte_inside hflight hpos
  calc step s
      = transferStep { s with inputs := rest } := step_of_transferTurn hline hin
    _ = dmaBeat { s with inputs := rest } := transferStep_eq_dmaBeat hirq hflight hpos
    _ = _ := dmaBeat_inside hinside

/-- Settles O18: at the end of the buffer the turn is `DmaDone`'s, which writes the interrupt flag alone. -/
theorem dmaDoneRaisesTheInterrupt : Obligations.DmaDoneRaisesTheInterrupt := by
  intro s rest hline hin hflight hend hirq
  calc step s
      = transferStep { s with inputs := rest } := step_of_transferTurn hline hin
    _ = .next (dmaDone { s with inputs := rest }) := transferStep_eq_dmaDone hirq hflight hend

/-- Settles O15: behind the phase guard stands the busy flag as the response, and no other effect. -/
theorem isTransferBusyReadsTheFlag : Obligations.IsTransferBusyReadsTheFlag := by
  intro s
  constructor
  · intro hready
    calc exec .isTransferBusy s
        = .next (respond (boolResult s.busy) s) := whenReady_ready hready _
      _ = .next (respond (if s.xfer = .idle then 0 else 1) s) := by rw [boolResult_busy]
  · exact fun hready => whenReady_notReady hready _

end Sys2Proof.Machine
end

section
/-! The window check (42_addressing.md R144) on numbers: `umin` and `umax` are the minimum and maximum of the naturals
the words stand for, so a rectangle put in order, its bounds and the band are statements about naturals. -/

namespace Sys2Proof.Machine

theorem toNat_umin {n : Nat} (a b : BitVec n) : (umin a b).toNat = min a.toNat b.toNat := by
  simp only [umin, min_def, BitVec.le_def]
  split <;> rfl

theorem toNat_umax {n : Nat} (a b : BitVec n) : (umax a b).toNat = max a.toNat b.toNat := by
  simp only [umax, max_def, BitVec.le_def]
  split <;> rfl

/-- The rectangle put in order, coordinate by coordinate (42_addressing.md R144). -/
theorem Rect.eq_ofCorners_iff {w : Rect} {x0 y0 x1 y1 : Half} :
    w = Rect.ofCorners x0 y0 x1 y1 ↔
      w.a0.toNat = min x0.toNat x1.toNat ∧ w.a1.toNat = max x0.toNat x1.toNat ∧
        w.b0.toNat = min y0.toNat y1.toNat ∧ w.b1.toNat = max y0.toNat y1.toNat := by
  obtain ⟨a0, b0, a1, b1⟩ := w
  simp only [Rect.ofCorners, Rect.mk.injEq, ← BitVec.toNat_inj, toNat_umin, toNat_umax]
  tauto

/-- Settles O28: the check's own rule, its rectangle and its comparisons read on naturals. -/
theorem windowCheckNormalisesAndRejects : Obligations.WindowCheckNormalisesAndRejects := by
  intro s x0 y0 x1 y1 w
  rw [windowCheck_eq_some, Rect.eq_ofCorners_iff]
  simp only [BitVec.lt_def, BitVec.le_def, and_assoc]

end Sys2Proof.Machine
end

section
/-! The Addressing/Protocol Engine operations (42_addressing.md R141 to R149, R151): `initialize`
by its three ways to end, then the operations behind the phase guard, each ending as its run ends. -/

namespace Sys2Proof.Machine

/-! `initialize`: on a ready block, where it fails, and where it brings the block up. -/

/-- `initialize` on a ready block answers true and does nothing else (42_addressing.md R143). -/
theorem execInitializeBlock_ready {s : State} (hready : s.phase = .ready) (ptr : Word) :
    execInitializeBlock ptr s = .next (respond 1 s) := if_pos hready

/-- A null pointer, or a Transport that fails, is answered false with no other effect (42_addressing.md R142). -/
theorem execInitializeBlock_fails {ptr : Word} {s : State} (hready : s.phase ≠ .ready)
    (hfails : ptr = 0 ∨ s.cfg.transportInitOk = false) : execInitializeBlock ptr s = .next (respond 0 s) := by
  rw [execInitializeBlock, if_neg hready, if_pos hfails]
  rfl

/-- Otherwise the bring-up sequence runs, and true is the answer (42_addressing.md R141). -/
theorem execInitializeBlock_bringsUp {ptr : Word} {s t : State} (hready : s.phase ≠ .ready) (hptr : ptr ≠ 0)
    (htransport : s.cfg.transportInitOk = true) (hrun : bringUp s = .ok t) :
    execInitializeBlock ptr s = .next (respond 1 t) := by
  have hworks : ¬(ptr = 0 ∨ s.cfg.transportInitOk = false) := not_or.mpr ⟨hptr, by simp [htransport]⟩
  rw [execInitializeBlock, if_neg hready, if_neg hworks, hrun]
  rfl

/-- The events of the whole bring-up, step after step in the order of 42_addressing.md R141. -/
theorem bringUpEvents_eq (cfg : Params) :
    [.cs .released, .bl 0] ++ resetPulseEvents cfg ++ bringUpCommands cfg =
      [.cs .released, .bl 0] ++
        [.rst .high, .delay cfg.tRstSettle, .rst .low, .delay cfg.tRstPulse, .rst .high, .delay cfg.tRstRecover] ++
        commandEvents 0x01 [] ++ pauseEvents cfg.initDelay[0] ++
        commandEvents 0x11 [] ++ pauseEvents cfg.initDelay[1] ++
        commandEvents 0x36 [cfg.rotTable[0]] ++ pauseEvents cfg.initDelay[2] ++
        commandEvents 0x3A [0x66] ++ pauseEvents cfg.initDelay[3] ++
        cfg.calibTable.flatMap (fun c => commandEvents c.1 c.2) ++ pauseEvents cfg.initDelay[4] ++
        commandEvents 0x21 [] ++ pauseEvents cfg.initDelay[5] ++
        commandEvents 0x29 [] ++ pauseEvents cfg.initDelay[6] := by
  simp only [resetPulseEvents, bringUpCommands, calibrationEvents, List.append_assoc]

/-- Settles O27: the three ways `initialize` ends. The bring-up leaves the DMA registers and the sequencer's as they
were, and those are the values claimed to exist. -/
theorem initializeBringsUpFailsOrIsIdempotent : Obligations.InitializeBringsUpFailsOrIsIdempotent := by
  intro ptr s
  refine ⟨fun hready => execInitializeBlock_ready hready ptr, execInitializeBlock_fails,
    fun hready hptr htransport => ⟨s.dmaPtr, s.dmaLen, s.dmaPos, s.seqState, s.seqRemaining, s.seqIndex, ?_⟩⟩
  rw [← bringUpEvents_eq, ← List.append_assoc, ← List.append_assoc]
  exact execInitializeBlock_bringsUp hready hptr htransport (bringUp_eq s)

/-! The operations behind the phase guard. -/

theorem execSetWindow_of_some {s : State} {x0 y0 x1 y1 : Half} {w : Rect} (hw : windowCheck s x0 y0 x1 y1 = some w) :
    execSetWindow x0 y0 x1 y1 s = whenReady s (conclude noResult (emitWindow w s)) := by
  rw [execSetWindow, hw]

theorem execSetWindow_of_none {s : State} {x0 y0 x1 y1 : Half} (hw : windowCheck s x0 y0 x1 y1 = none) :
    execSetWindow x0 y0 x1 y1 s = whenReady s (conclude noResult (.ok s)) := by
  rw [execSetWindow, hw]

/-- Settles O29: the guard, then the check. A rejected window ends the run before the bus is asked for, so no test of
`S.xfer` stands in its clause; one that passes sends its commands on an idle bus and stops on a busy one. -/
theorem setWindowSendsThreeCommands : Obligations.SetWindowSendsThreeCommands := fun _ _ _ _ _ =>
  ⟨fun w hready hw hidle =>
      (execSetWindow_of_some hw).trans (whenReady_conclude_ok hready (emitWindow_idle w hidle) noResult),
    fun hready hw => (execSetWindow_of_none hw).trans (whenReady_conclude_ok hready rfl noResult),
    fun w hready hw hbusy =>
      (execSetWindow_of_some hw).trans (whenReady_conclude_error hready (emitWindow_busy w hbusy) noResult),
    fun hready => whenReady_notReady hready _⟩

/-! An operation that assigns engine state and then sends one command: `u` is the state after the assignment. -/

theorem whenReady_sendCmd_idle {s : State} (u : State) (c : Byte) (params : List Byte) (hready : s.phase = .ready)
    (hidle : u.xfer = .idle) :
    whenReady s (conclude noResult (sendCmd c params u)) =
      .next (respond noResult (onWire (commandEvents c params) (if params = [] then .command else .data) u)) :=
  whenReady_conclude_ok hready (sendCmd_idle c params hidle) noResult

theorem whenReady_sendCmd_busy {s : State} (u : State) (c : Byte) (params : List Byte) (hready : s.phase = .ready)
    (hbusy : u.xfer ≠ .idle) : whenReady s (conclude noResult (sendCmd c params u)) = .fault .busConflict :=
  whenReady_conclude_error hready (sendCmd_busy c params hbusy) noResult

/-- Settles O31: size and band are assigned before the command, whose parameter leaves the line at data. -/
theorem setRotationAssignsSizeAndBand : Obligations.SetRotationAssignsSizeAndBand := fun rot s =>
  ⟨whenReady_sendCmd_idle (rotate rot s) 0x36 [s.cfg.rotTable[rot.toFin]],
    whenReady_sendCmd_busy (rotate rot s) 0x36 [s.cfg.rotTable[rot.toFin]],
    fun hready => whenReady_notReady hready _⟩

/-- Settles O32: the flag is written before the command, which has no parameters and leaves the line at command. -/
theorem setPartialModeSendsOneCommand : Obligations.SetPartialModeSendsOneCommand := fun flag s =>
  ⟨whenReady_sendCmd_idle { s with partialOn := flag } (if flag then 0x12 else 0x13) [],
    whenReady_sendCmd_busy { s with partialOn := flag } (if flag then 0x12 else 0x13) [],
    fun hready => whenReady_notReady hready _⟩

/-- The band of `setPartialArea` on naturals: in order, and below a height that is not 0 (42_addressing.md R149). -/
theorem toNat_bandOf {s : State} (hheight : s.height ≠ 0) (y0 y1 : Half) :
    (bandOf y0 y1 s).1.toNat = min (min y0.toNat y1.toNat) (s.height.toNat - 1) ∧
      (bandOf y0 y1 s).2.toNat = min (max y0.toNat y1.toNat) (s.height.toNat - 1) := by
  have hlast : (s.height - 1).toNat = s.height.toNat - 1 := by bv_omega
  simp only [bandOf, toNat_umin, toNat_umax, hlast, and_self]

/-- The engine state with the band of `setPartialArea` stored, before its command is sent (42_addressing.md R149). -/
def storeBand (y0 y1 : Half) (s : State) : State :=
  { s with partY0 := (bandOf y0 y1 s).1, partY1 := (bandOf y0 y1 s).2 }

theorem execSetPartialArea_eq (y0 y1 : Half) (s : State) :
    execSetPartialArea y0 y1 s =
      whenReady s (conclude noResult
        (sendCmd 0x30 (bigEndian (bandOf y0 y1 s).1 ++ bigEndian (bandOf y0 y1 s).2) (storeBand y0 y1 s))) := rfl

/-- Settles O33: the band stored and sent is `bandOf`; its four bytes leave the line at data. -/
theorem setPartialAreaClampsAndSends : Obligations.SetPartialAreaClampsAndSends := by
  intro y0 y1 s hheight
  obtain ⟨hfirst, hlast⟩ := toNat_bandOf hheight y0 y1
  have hrun := execSetPartialArea_eq y0 y1 s
  exact ⟨fun hready hidle =>
      ⟨_, _, hfirst, hlast, hrun.trans (whenReady_sendCmd_idle (storeBand y0 y1 s) 0x30 _ hready hidle)⟩,
    fun hready hbusy => hrun.trans (whenReady_sendCmd_busy (storeBand y0 y1 s) 0x30 _ hready hbusy),
    fun hready => hrun.trans (whenReady_notReady hready _)⟩

/-- Settles O35: on an idle bus the block is released, and the response is all that is added to it. -/
theorem teardownRestoresTheResetState : Obligations.TeardownRestoresTheResetState := by
  intro s
  refine ⟨fun hready hidle => ⟨respond noResult (releaseBlock s), ?_, ?_⟩, fun hready hbusy => ?_,
    fun hready => whenReady_notReady hready _⟩
  · exact whenReady_conclude_ok hready (if_pos hidle) noResult
  · obtain ⟨hcfg, hmainLine, htrace, hresponses, hmem, hinputs⟩ := releaseBlock_kept s
    obtain ⟨hphase, hxfer, hrotation, hwidth, hheight, hpartialOn, hpartY0, hpartY1, hdmaClaimed, hirqPending,
      hseqState, _⟩ := releaseBlock_reset s
    exact ⟨hphase, hxfer, hrotation, hwidth, hheight, hpartialOn, hpartY0, hpartY1, hdmaClaimed, hirqPending,
      hseqState, htrace, congrArg (· ++ [noResult]) hresponses, hcfg, hmainLine, hinputs,
      fun a => congrArg (readByte · a) hmem⟩
  · exact whenReady_conclude_error hready (if_neg hbusy) noResult

end Sys2Proof.Machine
end

section
/-! Colour conversion (43_color.md R172): a channel cut to six bits, and the response word of a colour, as bit fields of
the operand. -/

namespace Sys2Proof.Machine

/-- Narrowing the channel at bit `k` leaves the six bits from `k + 2` on. -/
theorem narrow8_extractLsb' {n : Nat} (c : BitVec n) (k : Nat) :
    narrow8 (c.extractLsb' k 8) = c.extractLsb' (k + 2) 6 := by
  ext i hi
  have hinside : 2 + i < 8 := by omega
  simp [narrow8, hinside, Nat.add_assoc]

theorem rgb888ToRgb666_eq (c : Imm) :
    rgb888ToRgb666 c = ⟨c.extractLsb' 18 6, c.extractLsb' 10 6, c.extractLsb' 2 6⟩ := by
  simp only [rgb888ToRgb666, narrow8_extractLsb']

/-- The response word of a colour: its channels, red first, below fourteen zero bits (30_encoding.md R73). -/
theorem colorResult_value (p : Rgb666) : colorResult p.value = (0#14 ++ p.r ++ p.g ++ p.b : BitVec 32) :=
  calc colorResult p.value
      = 0#14 ++ (p.r ++ p.g ++ p.b) := BitVec.setWidth_eq_append (by decide)
    _ = 0#14 ++ (p.r ++ p.g) ++ p.b := BitVec.append_assoc'
    _ = 0#14 ++ p.r ++ p.g ++ p.b := congrArg (· ++ p.b) BitVec.append_assoc'

/-- Settles O46: the operation has no phase guard and no test of `S.xfer`; its response is the word of the converted
colour, whose channels are the top bits of the operand's. -/
theorem rgb888ConversionAnswersItsTopBits : Obligations.Rgb888ConversionAnswersItsTopBits := by
  intro c888 s
  calc exec (.rgb888ToRgb666 c888) s
      = .next (respond (colorResult (rgb888ToRgb666 c888).value) s) := rfl
    _ = .next (respond (0#14 ++ c888.extractLsb' 18 6 ++ c888.extractLsb' 10 6 ++ c888.extractLsb' 2 6) s) := by
      rw [colorResult_value, rgb888ToRgb666_eq]

end Sys2Proof.Machine
end

section
/-! Solid fills (44_drawing.md R183 to R186). `fillRect` by its three ends: the window rejected, painted on an idle bus,
refused on a busy one. A fill operation is `fillRect` behind the phase guard, and a pixel is the fill of one cell. -/

namespace Sys2Proof.Machine

section
variable {s : State} {x0 y0 x1 y1 : Half} {w : Rect} {p : List Byte}

/-- A rejected window ends the run before the bus is asked for (44_drawing.md R185). -/
theorem fillRect_of_none (hw : windowCheck s x0 y0 x1 y1 = none) (p : List Byte) :
    fillRect x0 y0 x1 y1 p s = .ok s := by
  rw [fillRect, hw]

theorem fillRect_of_some (hw : windowCheck s x0 y0 x1 y1 = some w) (p : List Byte) :
    fillRect x0 y0 x1 y1 p s = drawWindow w (streamFill w.pixels p) s := by
  rw [fillRect, hw]

theorem fillRect_busy (hw : windowCheck s x0 y0 x1 y1 = some w) (hbusy : s.xfer ≠ .idle) (p : List Byte) :
    fillRect x0 y0 x1 y1 p s = .error .busConflict :=
  (fillRect_of_some hw p).trans (drawWindow_busy w _ hbusy)

/-- On an idle bus the window and its batches are sent, and the copies that primed the batch buffer stay at its start
(44_drawing.md R181). -/
theorem fillRect_idle (hw : windowCheck s x0 y0 x1 y1 = some w) (hidle : s.xfer = .idle)
    (hb : 0 < s.cfg.batchPixels.toNat) (hp : p.length = 3) :
    fillRect x0 y0 x1 y1 p s = .ok { s with
      trace := s.trace ++ (windowEvents w ++ fillEvents s.cfg.batchPixels.toNat w.pixels p)
      cs := .released, dc := .data
      batch := rep (min w.pixels s.cfg.batchPixels.toNat) p ++
        s.batch.drop (3 * min w.pixels s.cfg.batchPixels.toNat)
      seqState := .seqIdle, seqRemaining := 0 } := by
  rw [fillRect_of_some hw, drawWindow_fill_idle hp w hidle hb, ← rep_length hp]
  rfl

end

/-- Both formats of `fillArea` are the same fill, of the three bytes of their colour (44_drawing.md R185, R186). -/
theorem exec_fillArea_formats {x0 y0 x1 y1 c565 : Half} {c888 : Imm} {ip : Instr × List Byte}
    (hip : ip ∈ [(Instr.fillArea x0 y0 x1 y1 c565, pix565 c565),
      (Instr.fillAreaRGB24 x0 y0 x1 y1 c888, pix888 c888)]) (s : State) :
    ip.2.length = 3 ∧ exec ip.1 s = whenReady s (conclude noResult (fillRect x0 y0 x1 y1 ip.2 s)) := by
  simp only [List.mem_cons, List.not_mem_nil, or_false] at hip
  rcases hip with rfl | rfl <;> exact ⟨rfl, rfl⟩

/-- Settles O37: the guard, then the fill by its three ends; `seq.remaining` ends at 0 and `seq.index` is not used. -/
theorem fillAreaStreamsOneColour : Obligations.FillAreaStreamsOneColour := by
  intro x0 y0 x1 y1 c565 c888 s hb ip hip
  obtain ⟨hp, hexec⟩ := exec_fillArea_formats hip s
  rw [hexec]
  exact ⟨fun w hready hw hidle =>
      ⟨0, s.seqIndex, whenReady_conclude_ok hready (fillRect_idle hw hidle hb hp) noResult⟩,
    fun hready hw => whenReady_conclude_ok hready (fillRect_of_none hw ip.2) noResult,
    fun w hready hw hbusy => whenReady_conclude_error hready (fillRect_busy hw hbusy ip.2) noResult,
    fun hready => whenReady_notReady hready _⟩

/-! One cell: its corners, its check, its pixel count and the one frame of its fill. -/

@[simp] theorem umin_self {n : Nat} (a : BitVec n) : umin a a = a := ite_self a

@[simp] theorem umax_self {n : Nat} (a : BitVec n) : umax a a = a := ite_self a

@[simp] theorem Rect.ofCorners_cell (x y : Half) : Rect.ofCorners x y x y = ⟨x, y, x, y⟩ := by
  simp [Rect.ofCorners]

@[simp] theorem Rect.pixels_cell (x y : Half) : Rect.pixels ⟨x, y, x, y⟩ = 1 := by
  simp [Rect.pixels, Rect.columns, Rect.rows]

/-- The check passes a cell inside the bounds and the band, as itself (42_addressing.md R144). -/
theorem windowCheck_cell_eq_some {s : State} {x y : Half} :
    windowCheck s x y x y = some ⟨x, y, x, y⟩ ↔
      x < s.width ∧ y < s.height ∧ (s.partialOn = true → s.partY0 ≤ y ∧ y ≤ s.partY1) := by
  rw [windowCheck_eq_some, Rect.ofCorners_cell]
  exact and_iff_right rfl

/-- Every other cell is rejected: a rectangle that passed would be the cell itself. -/
theorem windowCheck_cell_eq_none {s : State} {x y : Half}
    (h : ¬(x < s.width ∧ y < s.height ∧ (s.partialOn = true → s.partY0 ≤ y ∧ y ≤ s.partY1))) :
    windowCheck s x y x y = none := by
  refine Option.eq_none_iff_forall_ne_some.mpr fun w hw => h (windowCheck_cell_eq_some.mp ?_)
  obtain ⟨rfl, _⟩ := windowCheck_eq_some.mp hw
  rwa [Rect.ofCorners_cell] at hw

@[simp] theorem rep_one (p : List Byte) : rep 1 p = p := by simp [rep]

/-- A fill of one pixel is one frame of its bytes (44_drawing.md R181, R183). -/
theorem fillEvents_one {batch : Nat} (hb : 0 < batch) (p : List Byte) :
    fillEvents batch 1 p = frameEvents .data p := by
  have hmin : min 1 batch = 1 := Nat.min_eq_left hb
  rw [fillEvents_step hb one_pos, hmin, rep_one, Nat.sub_self, fillEvents_zero, List.append_nil]

/-- What a fill of one cell inside the bounds and the band does on an idle bus (44_drawing.md R183). -/
theorem fillRect_cell_idle {s : State} {x y : Half} {p : List Byte}
    (hw : windowCheck s x y x y = some ⟨x, y, x, y⟩) (hidle : s.xfer = .idle)
    (hb : 0 < s.cfg.batchPixels.toNat) (hp : p.length = 3) :
    fillRect x y x y p s = .ok { s with
      trace := s.trace ++ (windowEvents ⟨x, y, x, y⟩ ++ frameEvents .data p)
      cs := .released, dc := .data, batch := p ++ s.batch.drop 3
      seqState := .seqIdle, seqRemaining := 0 } := by
  have hmin : min 1 s.cfg.batchPixels.toNat = 1 := Nat.min_eq_left hb
  rw [fillRect_idle hw hidle hb hp, Rect.pixels_cell, fillEvents_one hb, hmin, rep_one]

/-- Both formats of `drawPixel` are the same fill of one cell (44_drawing.md R183, R184). -/
theorem exec_drawPixel_formats {x y c565 : Half} {c888 : Imm} {ip : Instr × List Byte}
    (hip : ip ∈ [(Instr.drawPixel x y c565, pix565 c565), (Instr.drawPixelRGB24 x y c888, pix888 c888)])
    (s : State) :
    ip.2.length = 3 ∧ exec ip.1 s = whenReady s (conclude noResult (fillRect x y x y ip.2 s)) := by
  simp only [List.mem_cons, List.not_mem_nil, or_false] at hip
  rcases hip with rfl | rfl <;> exact ⟨rfl, rfl⟩

/-- Settles O36: the guard, then the fill of one cell, which the check passes exactly where the pixel is inside. -/
theorem drawPixelSendsOnePixelOrNothing : Obligations.DrawPixelSendsOnePixelOrNothing := by
  intro x y c565 c888 s hb ip hip
  obtain ⟨hp, hexec⟩ := exec_drawPixel_formats hip s
  rw [hexec]
  exact ⟨fun hready hinside hidle => ⟨0, s.seqIndex, whenReady_conclude_ok hready
      (fillRect_cell_idle (windowCheck_cell_eq_some.mpr hinside) hidle hb hp) noResult⟩,
    fun hready houtside =>
      whenReady_conclude_ok hready (fillRect_of_none (windowCheck_cell_eq_none houtside) ip.2) noResult,
    fun hready hinside hbusy => whenReady_conclude_error hready
      (fillRect_busy (windowCheck_cell_eq_some.mpr hinside) hbusy ip.2) noResult,
    fun hready => whenReady_notReady hready _⟩

end Sys2Proof.Machine
end

section
/-! The completion exception (60_exceptions.md R218): the turn of the agents beside the main line when the interrupt
is pending. -/

namespace Sys2Proof.Machine

/-- With the interrupt pending, the agent that moves is `IrqHandler` (60_exceptions.md R218). -/
theorem transferStep_eq_takeCompletionInterrupt {s : State} (hirq : s.irqPending = true) :
    transferStep s = .next (takeCompletionInterrupt s) := by
  rcases transferStep_cases s with ⟨_, hhandler⟩ | ⟨hclear, _⟩ | ⟨hclear, _⟩ | ⟨hclear, _⟩
  · exact hhandler
  all_goals simp [hirq] at hclear

/-- The whole state after the handler: chip-select driven released, the transfer idle, the interrupt acknowledged
(60_exceptions.md R218). -/
theorem takeCompletionInterrupt_eq (s : State) :
    takeCompletionInterrupt s =
      { s with trace := s.trace ++ [.cs .released], cs := .released, xfer := .idle, irqPending := false } := rfl

/-- Settles O19: a pending interrupt gives the turn to the handler, wherever the transfer stands, so the premise on
the transfer is not used. -/
theorem completionHandlerReleasesTheBus : Obligations.CompletionHandlerReleasesTheBus := by
  intro s rest _ hline hin hirq
  calc step s
      = transferStep { s with inputs := rest } := step_of_transferTurn hline hin
    _ = .next (takeCompletionInterrupt { s with inputs := rest }) := transferStep_eq_takeCompletionInterrupt hirq
    _ = _ := congrArg Host.Outcome.next (takeCompletionInterrupt_eq _)

end Sys2Proof.Machine
end

section
/-! What an instruction can have done: one inversion lemma for `exec`. An instruction that answers a next state has done
one of a few kinds of work (`Work`) and then delivered its response; or it is a wire command, which has none; or it is
a `waitTransferIdle` that holds (`Ends`). Statements about every instruction split these cases instead of `exec`. -/

namespace Sys2Proof

/-- The drawing operations (44_drawing.md R183 to R190). -/
def Instr.draws : Instr → Bool
  | .drawPixel _ _ _ | .drawPixelRGB24 _ _ _ | .fillArea _ _ _ _ _ | .fillAreaRGB24 _ _ _ _ _ | .fillScreen _
  | .fillScreenRGB24 _ | .writePixels _ _ _ _ _ _ | .writePixelsRGB24 _ _ _ _ _ _ => true
  | _ => false

end Sys2Proof

namespace Sys2Proof.Machine

/-- The state the bring-up sequence leaves (42_addressing.md R141). -/
def broughtUp (s : State) : State :=
  { s with
    phase := .ready, rotation := 0, width := s.cfg.panelW, height := s.cfg.panelH
    partialOn := false, partY0 := 0, partY1 := s.cfg.panelH - 1
    xfer := .idle, dmaClaimed := false, irqPending := false
    cs := .released, dc := .command, rst := .high, bl := 0
    trace := s.trace ++ [.cs .released, .bl 0] ++ resetPulseEvents s.cfg ++ bringUpCommands s.cfg }

theorem bringUp_eq_ok (s : State) : bringUp s = .ok (broughtUp s) := bringUp_eq s

/-- The state of a transfer just started, with the events that led to it (41_dma.md R120). -/
def started (es : List Event) (ptr len : Word) (s : State) : State :=
  { s with
    trace := s.trace ++ es, cs := .asserted, dc := .data
    dmaClaimed := true, dmaPtr := ptr, dmaLen := len, dmaPos := 0, xfer := .inFlight }

theorem armTransfer_eq_started (ptr len : Word) (s : State) :
    armTransfer ptr len s = started [.cs .asserted, .dc .data] ptr len s := armTransfer_eq ptr len s

/-- `writeDMA` has driven the data level before the transfer starts (42_addressing.md R150). -/
theorem armTransfer_drive_data (ptr len : Word) (s : State) :
    armTransfer ptr len (drive (.dc .data) s) = started [.dc .data, .cs .asserted, .dc .data] ptr len s := by
  rw [armTransfer_eq_started]
  simp [started, drive, driveAll, setPin]

/-- What instruction `i` can have done to a state before its response: the kinds of work, each with the guards it
passed. -/
inductive Work : Instr → State → State → Prop where
  | nothing {i : Instr} {s : State} : Work i s s
  | frames {i : Instr} {s : State} (fs : List (Tag × List Byte)) (d : Tag) (hidle : s.xfer = .idle) :
    Work i s (onWire (framesEvents fs) d s)
  | draws {i : Instr} {s : State} (hdraws : i.draws = true) (fs : List (Tag × List Byte)) (d : Tag)
    (b : List Byte) (r j : Word) (hidle : s.xfer = .idle)
    (hlength : 0 < s.cfg.batchPixels.toNat → 3 * s.cfg.batchPixels.toNat ≤ s.batch.length →
      b.length = s.batch.length) : Work i s (afterFrames fs d b .seqIdle r j s)
  | rotates {s : State} (rot : BitVec 2) (fs : List (Tag × List Byte)) (d : Tag)
    (hidle : s.xfer = .idle) : Work (.setRotation rot) s (onWire (framesEvents fs) d (rotate rot s))
  | switchesPartialMode {s : State} (flag : Bool) (fs : List (Tag × List Byte)) (d : Tag)
    (hidle : s.xfer = .idle) : Work (.setPartialMode flag) s (onWire (framesEvents fs) d { s with partialOn := flag })
  | storesBand {s : State} (y0 y1 : Half) (fs : List (Tag × List Byte)) (d : Tag)
    (hidle : s.xfer = .idle) : Work (.setPartialArea y0 y1) s (onWire (framesEvents fs) d (storeBand y0 y1 s))
  | pulses {s : State} (hidle : s.xfer = .idle) :
    Work .reset s { s with trace := s.trace ++ resetPulseEvents s.cfg, rst := .high }
  | backlight {i : Instr} {s : State}
    (hi : (∃ flag, i = .setBacklight flag) ∨ ∃ level, i = .setBacklightBrightness level) (v : Byte) :
    Work i s (drive (.bl v) s)
  | arms {s : State} (ptr len : Word) (hready : s.phase = .ready) (hstarts : dmaStarts ptr len s = true) :
    Work (.writeDataDMA ptr len) s (started [.cs .asserted, .dc .data] ptr len s)
  | drivesData {s : State} (ptr len : Word) : Work (.writeDMA ptr len) s (drive (.dc .data) s)
  | drivesDataAndArms {s : State} (ptr len : Word) (hready : s.phase = .ready)
    (hstarts : dmaStarts ptr len s = true) :
    Work (.writeDMA ptr len) s (started [.dc .data, .cs .asserted, .dc .data] ptr len s)
  | bringsUp {s : State} (ptr : Word) (hptr : ptr ≠ 0) (hphase : s.phase ≠ .ready) :
    Work (.initializeBlock ptr) s (broughtUp s)
  | releases {s : State} (hready : s.phase = .ready) (hidle : s.xfer = .idle) : Work .teardown s (releaseBlock s)

/-- The response words instruction `i` can deliver in state `s` (30_encoding.md R73). -/
def Answers (i : Instr) (s : State) (v : Word) : Prop :=
  match i with
  | .rgb565ToRgb666 _ | .rgb888ToRgb666 _ => ∃ value, v = colorResult value
  | .initializeBlock _ => ∃ b, v = boolResult b
  | .writeDataDMA ptr len | .writeDMA ptr len => v = boolResult (dmaStarts ptr len s)
  | .isTransferBusy => v = boolResult s.busy
  | _ => v = noResult

/-- How an instruction that answers a next state has ended (00_scope.md R10, 30_encoding.md R73, R78,
41_dma.md R122). -/
inductive Ends : Instr → State → State → Prop where
  | holds {s : State} (hready : s.phase = .ready) (hbusy : s.xfer ≠ .idle) :
    Ends .waitTransferIdle s { s with mainLine := .waiting }
  | returns {i : Instr} {s u : State} {v : Word} (hwork : Work i s u) (hanswers : Answers i s v) :
    Ends i s (respond v u)
  | emits {i : Instr} {s : State} (hwire : ∀ d, encode i ≠ .descriptor d) (fs : List (Tag × List Byte)) (d : Tag)
    (hidle : s.xfer = .idle) : Ends i s (onWire (framesEvents fs) d s)

/-! From the run of each shared operation to the work it is. -/

/-- A guarded operation without a result: its run is its work (42_addressing.md R140, 30_encoding.md R73). -/
theorem ends_of_guarded {i : Instr} {s t : State} {r : Except Fault State} {v : Word} (hanswers : Answers i s v)
    (hwork : ∀ u, s.phase = .ready → r = .ok u → Work i s u) (h : whenReady s (conclude v r) = .next t) :
    Ends i s t := by
  obtain ⟨hready, hrun⟩ := whenReady_next h
  obtain ⟨u, hu, rfl⟩ := conclude_next hrun
  exact .returns (hwork u hready hu) hanswers

theorem work_of_frame {i : Instr} {t : Tag} {bytes : List Byte} {s u : State} (h : frame t bytes s = .ok u) :
    Work i s u := by
  obtain ⟨hidle, rfl⟩ := frame_ok h
  exact .frames _ _ hidle

theorem work_of_emitWindow {i : Instr} {w : Rect} {s u : State} (h : emitWindow w s = .ok u) : Work i s u := by
  obtain ⟨hidle, rfl⟩ := emitWindow_ok h
  exact .frames _ _ hidle

/-- A fill keeps the size of the batch buffer (10_state.md R31, 44_drawing.md R181). -/
theorem fillRect_batch_length {x0 y0 x1 y1 : Half} {p : List Byte} {s u : State} (hp : p.length = 3)
    (h : fillRect x0 y0 x1 y1 p s = .ok u) (hb : 0 < s.cfg.batchPixels.toNat)
    (hsize : 3 * s.cfg.batchPixels.toNat ≤ s.batch.length) : u.batch.length = s.batch.length := by
  obtain rfl | ⟨hidle, _⟩ := fillRect_ok h
  · rfl
  cases hw : windowCheck s x0 y0 x1 y1 with
  | none => rw [fillRect_of_none hw] at h; cases h; rfl
  | some w =>
    rw [fillRect_idle hw hidle hb hp] at h
    cases h
    simp only [List.length_append, rep_length hp, List.length_drop]
    omega

/-! A bulk write by its ends (44_drawing.md R189, R190): nothing to write, the window rejected, the array past the end of
host memory, the window drawn. -/

theorem writeRect_null {f : ArrayFormat} {x0 y0 x1 y1 : Half} {ptr len : Word} (h : ptr = 0 ∨ len = 0) (s : State) :
    writeRect f x0 y0 x1 y1 ptr len s = .ok s := if_pos h

theorem writeRect_of_none {f : ArrayFormat} {x0 y0 x1 y1 : Half} {ptr len : Word} {s : State}
    (hw : windowCheck s x0 y0 x1 y1 = none) : writeRect f x0 y0 x1 y1 ptr len s = .ok s := by
  unfold writeRect
  rw [hw]
  split <;> rfl

theorem writeRect_badRange {f : ArrayFormat} {x0 y0 x1 y1 : Half} {ptr len : Word} {s : State} {w : Rect}
    (hptr : ptr ≠ 0) (hlen : len ≠ 0) (hw : windowCheck s x0 y0 x1 y1 = some w)
    (hrange : addressSpace s.cfg < ptr.toNat + f.elementBytes * min len.toNat w.pixels) :
    writeRect f x0 y0 x1 y1 ptr len s = .error .badRange := by
  rw [writeRect, if_neg (not_or.mpr ⟨hptr, hlen⟩), hw]
  exact if_pos hrange

theorem writeRect_of_some {f : ArrayFormat} {x0 y0 x1 y1 : Half} {ptr len : Word} {s : State} {w : Rect}
    (hptr : ptr ≠ 0) (hlen : len ≠ 0) (hw : windowCheck s x0 y0 x1 y1 = some w)
    (hrange : ptr.toNat + f.elementBytes * min len.toNat w.pixels ≤ addressSpace s.cfg) :
    writeRect f x0 y0 x1 y1 ptr len s = drawWindow w (streamPixels w.pixels f ptr len) s := by
  rw [writeRect, if_neg (not_or.mpr ⟨hptr, hlen⟩), hw]
  exact if_neg (not_lt.mpr hrange)

/-- A bulk write keeps the size of the batch buffer (10_state.md R31, 44_drawing.md R182). -/
theorem writeRect_batch_length {f : ArrayFormat} {x0 y0 x1 y1 : Half} {ptr len : Word} {s u : State}
    (h : writeRect f x0 y0 x1 y1 ptr len s = .ok u) (hb : 0 < s.cfg.batchPixels.toNat)
    (hsize : 3 * s.cfg.batchPixels.toNat ≤ s.batch.length) : u.batch.length = s.batch.length := by
  obtain rfl | ⟨hidle, _⟩ := writeRect_ok h
  · rfl
  by_cases hnull : ptr = 0 ∨ len = 0
  · rw [writeRect_null hnull] at h; cases h; rfl
  obtain ⟨hptr, hlen⟩ := not_or.mp hnull
  cases hw : windowCheck s x0 y0 x1 y1 with
  | none => rw [writeRect_of_none hw] at h; cases h; rfl
  | some w =>
    rcases Nat.lt_or_ge (addressSpace s.cfg) (ptr.toNat + f.elementBytes * min len.toNat w.pixels) with hrange | hrange
    · rw [writeRect_badRange hptr hlen hw hrange] at h; cases h
    · obtain ⟨b, hlength, hdraw⟩ := drawWindow_pixels_idle f ptr len w hidle hb
      rw [writeRect_of_some hptr hlen hw hrange, hdraw] at h
      cases h
      exact hlength hsize

theorem work_of_fillRect {i : Instr} (hdraws : i.draws = true) {x0 y0 x1 y1 : Half} {p : List Byte}
    (hp : p.length = 3) {s u : State} (h : fillRect x0 y0 x1 y1 p s = .ok u) : Work i s u := by
  have hlength := fillRect_batch_length hp h
  obtain rfl | ⟨hidle, fs, d, b, r, j, _, rfl⟩ := fillRect_ok h
  · exact .nothing
  · exact .draws hdraws fs d b r j hidle hlength

theorem work_of_writeRect {i : Instr} (hdraws : i.draws = true) {f : ArrayFormat} {x0 y0 x1 y1 : Half}
    {ptr len : Word} {s u : State} (h : writeRect f x0 y0 x1 y1 ptr len s = .ok u) : Work i s u := by
  have hlength := writeRect_batch_length h
  obtain rfl | ⟨hidle, fs, d, b, r, j, _, rfl⟩ := writeRect_ok h
  · exact .nothing
  · exact .draws hdraws fs d b r j hidle hlength

/-- The data level driven first does not change whether a transfer starts (42_addressing.md R150). -/
theorem dmaStarts_drive_dc (ptr len : Word) (t : Tag) (s : State) :
    dmaStarts ptr len (drive (.dc t) s) = dmaStarts ptr len s := rfl

/-- A wire command went through on an idle bus, its frames on the wire (40_transport.md R101). -/
theorem ends_of_runWire {i : Instr} (hwire : ∀ d, encode i ≠ .descriptor d) {c : Byte} {params : List Byte}
    {s t : State} (h : runWire c params s = .next t) : Ends i s t := by
  unfold runWire at h
  split at h
  · rename_i u hu
    obtain ⟨hidle, rfl⟩ := sendCmd_ok hu
    cases h
    exact .emits hwire _ _ hidle
  · cases h

/-- How `initialize` ends (42_addressing.md R141 to R143). -/
theorem ends_of_initializeBlock {ptr : Word} {s t : State} (h : execInitializeBlock ptr s = .next t) :
    Ends (.initializeBlock ptr) s t := by
  unfold execInitializeBlock at h
  split at h
  · cases h; exact .returns .nothing ⟨true, rfl⟩
  · rename_i hphase
    split at h
    · cases h; exact .returns .nothing ⟨false, rfl⟩
    · rename_i hworks
      rw [bringUp_eq_ok] at h
      cases h
      exact .returns (.bringsUp ptr (fun hptr => hworks (.inl hptr)) hphase) ⟨true, rfl⟩

/-- How an instruction can have ended: the one place where `exec` is split by its constructors. -/
theorem exec_ends {i : Instr} {s t : State} (h : exec i s = .next t) : Ends i s t := by
  cases i with
  | writeCommand byte => exact ends_of_guarded rfl (fun _ _ => work_of_frame) h
  | writeData byte => exact ends_of_guarded rfl (fun _ _ => work_of_frame) h
  | writeDataBuffer ptr len =>
    refine ends_of_guarded rfl (fun u _ hu => ?_) h
    split at hu
    · rw [bufferFrame_eq_frame] at hu
      exact work_of_frame hu
    · cases hu; exact .nothing
  | writeDataDMA ptr len =>
    obtain ⟨hready, hrun⟩ := whenReady_next h
    cases hrun
    obtain ⟨hstarts, heq⟩ | ⟨hstarts, heq⟩ := startDma_cases ptr len s <;> rw [heq]
    · rw [armTransfer_eq_started]
      exact .returns (.arms ptr len hready hstarts) (congrArg boolResult hstarts.symm)
    · exact .returns .nothing (congrArg boolResult hstarts.symm)
  | isTransferBusy =>
    obtain ⟨_, hrun⟩ := whenReady_next h
    cases hrun
    exact .returns .nothing rfl
  | waitTransferIdle =>
    obtain ⟨hready, hrun⟩ := whenReady_next h
    split at hrun
    · next hbusy => cases hrun; exact .holds hready (bne_iff_ne.mp hbusy)
    · cases hrun; exact .returns .nothing rfl
  | reset =>
    refine ends_of_guarded rfl (fun u _ hu => ?_) h
    by_cases hidle : s.xfer = .idle
    · rw [resetPulse_idle hidle] at hu
      cases hu
      exact .pulses hidle
    · rw [resetPulse_busy hidle] at hu
      cases hu
  | setBacklight flag =>
    refine ends_of_guarded rfl (fun u _ hu => ?_) h
    cases hu
    exact .backlight (.inl ⟨flag, rfl⟩) _
  | setBacklightBrightness level =>
    refine ends_of_guarded rfl (fun u _ hu => ?_) h
    cases hu
    exact .backlight (.inr ⟨level, rfl⟩) _
  | initializeBlock ptr => exact ends_of_initializeBlock h
  | setWindow x0 y0 x1 y1 =>
    refine ends_of_guarded rfl (fun u _ hu => ?_) h
    split at hu
    · cases hu; exact .nothing
    · exact work_of_emitWindow hu
  | setRotation rot =>
    refine ends_of_guarded rfl (fun u _ hu => ?_) h
    obtain ⟨hidle, rfl⟩ := sendCmd_ok hu
    exact .rotates rot _ _ hidle
  | setPartialMode flag =>
    refine ends_of_guarded rfl (fun u _ hu => ?_) h
    obtain ⟨hidle, rfl⟩ := sendCmd_ok hu
    exact .switchesPartialMode flag _ _ hidle
  | setPartialArea y0 y1 =>
    refine ends_of_guarded rfl (fun u _ hu => ?_) h
    obtain ⟨hidle, rfl⟩ := sendCmd_ok hu
    exact .storesBand y0 y1 _ _ hidle
  | writeDMA ptr len =>
    obtain ⟨hready, hrun⟩ := whenReady_next h
    cases hrun
    obtain ⟨hstarts, heq⟩ | ⟨hstarts, heq⟩ := startDma_cases ptr len (drive (.dc .data) s) <;> rw [heq]
    · rw [armTransfer_drive_data]
      exact .returns (.drivesDataAndArms ptr len hready hstarts) (congrArg boolResult hstarts.symm)
    · exact .returns (.drivesData ptr len) (congrArg boolResult hstarts.symm)
  | teardown =>
    refine ends_of_guarded rfl (fun u hready hu => ?_) h
    split at hu
    · next hidle => cases hu; exact .releases hready hidle
    · cases hu
  | drawPixel x y c565 => exact ends_of_guarded rfl (fun _ _ => work_of_fillRect rfl (pix565_length c565)) h
  | drawPixelRGB24 x y c888 => exact ends_of_guarded rfl (fun _ _ => work_of_fillRect rfl (pix888_length c888)) h
  | fillArea x0 y0 x1 y1 c565 => exact ends_of_guarded rfl (fun _ _ => work_of_fillRect rfl (pix565_length c565)) h
  | fillAreaRGB24 x0 y0 x1 y1 c888 =>
    exact ends_of_guarded rfl (fun _ _ => work_of_fillRect rfl (pix888_length c888)) h
  | fillScreen c565 => exact ends_of_guarded rfl (fun _ _ => work_of_fillRect rfl (pix565_length c565)) h
  | fillScreenRGB24 c888 => exact ends_of_guarded rfl (fun _ _ => work_of_fillRect rfl (pix888_length c888)) h
  | writePixels x0 y0 x1 y1 ptr len => exact ends_of_guarded rfl (fun _ _ => work_of_writeRect rfl) h
  | writePixelsRGB24 x0 y0 x1 y1 ptr len => exact ends_of_guarded rfl (fun _ _ => work_of_writeRect rfl) h
  | rgb565ToRgb666 c565 => cases h; exact .returns .nothing ⟨_, rfl⟩
  | rgb888ToRgb666 c888 => cases h; exact .returns .nothing ⟨_, rfl⟩
  | wireReset | wireSleepOut | wirePartialModeOn | wireNormalModeOn | wireDisplayInvertOn | wireDisplayOn
  | wireColumnAddressSet _ _ | wireRowAddressSet _ _ | wireMemoryWrite | wirePartialArea _ _
  | wireMemoryAccessControl _ | wirePixelFormat _ => exact ends_of_runWire (fun _ hd => by cases hd) h

end Sys2Proof.Machine
end

section
/-! What a step can have done, from `step_cases` and the inversion of `exec`: one constructor per way to go. -/

namespace Sys2Proof.Machine

/-- How a step that answers a next state went: a hold ended, an instruction ran, an agent beside the main line moved (or
none was enabled), the host wrote a byte, or an illegal code was answered. The stimuli left are `rest`. -/
inductive Stepped (s : State) : State → Prop where
  | endsHold (hwaiting : s.mainLine = .waiting) (hidle : s.xfer = .idle) : Stepped s (releaseHold s)
  | runs {i : Instr} {t : State} (rest : List Input) (latch : OperandLatch)
    (hline : s.mainLine = .free ∨ s.mainLine = .emitting i)
    (hends : Ends i { s with inputs := rest, latch := latch, mainLine := .free } t) : Stepped s t
  | handlesInterrupt (rest : List Input) (hirq : s.irqPending = true) :
    Stepped s (takeCompletionInterrupt { s with inputs := rest })
  | clocksByte (rest : List Input) (hirq : s.irqPending = false) (hflight : s.xfer = .inFlight)
    (hpos : s.dmaPos < s.dmaLen) (b : Byte) :
    Stepped s { s with inputs := rest, trace := s.trace ++ [.tx b], dmaPos := s.dmaPos + 1 }
  | raisesInterrupt (rest : List Input) (hflight : s.xfer = .inFlight) (hend : s.dmaPos = s.dmaLen) :
    Stepped s (dmaDone { s with inputs := rest })
  | passes (rest : List Input) : Stepped s { s with inputs := rest }
  | hostWrites {addr : Word} {b : Byte} {rest : List Input} (hin : s.inputs = .hostWrite addr b :: rest)
    (hinside : addr.toNat < addressSpace s.cfg) :
    Stepped s { s with inputs := rest, mem := writeByte s.mem addr.toNat b }
  | answersIllegalCode (rest : List Input) (hfree : s.mainLine = .free) :
    Stepped s (respond illegalResult { s with inputs := rest })

/-- What `DmaBeat` can have done (41_dma.md R123). -/
theorem dmaBeat_next {s t : State} (h : dmaBeat s = .next t) :
    ∃ b, t = { s with trace := s.trace ++ [.tx b], dmaPos := s.dmaPos + 1 } := by
  unfold dmaBeat at h
  dsimp only at h
  split at h
  · cases h; exact ⟨_, rfl⟩
  · cases h

/-- What the host's write can have done: one byte inside the address space (20_memory.md R59). -/
theorem hostWrite_next {addr : Word} {b : Byte} {s t : State} (h : hostWrite addr b s = .next t) :
    addr.toNat < addressSpace s.cfg ∧ t = { s with mem := writeByte s.mem addr.toNat b } := by
  unfold hostWrite at h
  split at h
  · cases h
  · split at h
    · cases h
    · cases h; exact ⟨by omega, rfl⟩

/-- The agents' move with `rest` of the stimuli left. -/
theorem stepped_of_transferStep {s t : State} (rest : List Input)
    (h : transferStep { s with inputs := rest } = .next t) : Stepped s t := by
  obtain ⟨hirq, heq⟩ | ⟨hirq, hflight, hpos, heq⟩ | ⟨_, hflight, hend, heq⟩ | ⟨_, _, heq⟩ :=
    transferStep_cases { s with inputs := rest }
  · cases heq.symm.trans h; exact .handlesInterrupt (s := s) rest hirq
  · obtain ⟨b, rfl⟩ := dmaBeat_next (heq.symm.trans h)
    exact .clocksByte (s := s) rest hirq hflight hpos b
  · cases heq.symm.trans h; exact .raisesInterrupt (s := s) rest hflight hend
  · cases heq.symm.trans h; exact .passes (s := s) rest

/-- How a step can have gone. -/
theorem step_stepped {s t : State} (h : step s = .next t) : Stepped s t := by
  obtain ⟨hwaiting, hidle, heq⟩ | ⟨i, hemit, heq⟩ | ⟨_, heq | ⟨rest, _, heq⟩ | ⟨addr, b, rest, hin, heq⟩ |
    ⟨hfree, hrequest⟩⟩ := step_cases s
  · cases heq.symm.trans h; exact .endsHold hwaiting hidle
  · exact .runs s.inputs s.latch (.inr hemit) (exec_ends (heq.symm.trans h))
  · exact stepped_of_transferStep s.inputs (heq.symm.trans h)
  · exact stepped_of_transferStep rest (heq.symm.trans h)
  · obtain ⟨hinside, rfl⟩ := hostWrite_next (heq.symm.trans h)
    exact .hostWrites hin hinside
  · obtain ⟨d, rest, i, _, _, heq⟩ | ⟨d, rest, e, _, _, heq⟩ := hrequest
    · have hends := exec_ends (heq.symm.trans h)
      rw [show acceptRequest (d.taken s.cfg.ptrBits s.cfg.lenBits) rest s = { s with
        inputs := rest, latch := (d.taken s.cfg.ptrBits s.cfg.lenBits).operands, mainLine := .free } by
          rw [← hfree]; rfl] at hends
      exact .runs rest _ (.inl hfree) hends
    · cases heq.symm.trans h; exact .answersIllegalCode rest hfree

end Sys2Proof.Machine
end

section
/-! The invariant of 10_state.md R37: it holds after reset, and every kind of work, every agent's step and every host
write keeps it. -/

namespace Sys2Proof.Machine

/-! What `Params.admitted` says of the parameters that the proofs read (00_scope.md R5). -/

theorem Params.admitted_iff (c : Params) :
    c.admitted = true ↔ c.panelW ≠ 0 ∧ c.panelH ≠ 0 ∧ c.chunkBytes ≠ 0 ∧ c.batchPixels ≠ 0 ∧
      (1 ≤ c.ptrBits ∧ c.ptrBits ≤ 32) ∧ 1 ≤ c.lenBits ∧ c.lenBits ≤ 32 := by
  simp [Params.admitted, and_assoc]

/-- An admitted batch holds a pixel (00_scope.md R5). -/
theorem Invariant.batchPixels_pos {s : State} (h : Invariant s) : 0 < s.cfg.batchPixels.toNat := by
  obtain ⟨_, _, _, hbatch, _⟩ := (Params.admitted_iff _).mp h.admitted
  bv_omega

/-- The whole panel is a band inside the height of the upright screen (10_state.md R25, R36). -/
theorem bandInside_of_panel {s : State} (hpanel : s.cfg.panelH ≠ 0) (hheight : s.height = s.cfg.panelH)
    (hfirst : s.partY0 = 0) (hlast : s.partY1 = s.cfg.panelH - 1) : bandInside s := by
  rw [bandInside, hheight, hfirst, hlast]
  exact ⟨Nat.zero_le _, by bv_omega⟩

/-- An idle transfer is sound, whatever its registers hold (10_state.md R37 (c), (e)). -/
theorem transferSound_of_idle {s : State} (hidle : s.xfer = .idle) : transferSound s := fun hbusy => absurd hidle hbusy

theorem interruptSound_of_clear {s : State} (hclear : s.irqPending = false) : interruptSound s := by
  simp [interruptSound, hclear]

/-- While the transfer is idle no interrupt is pending (10_state.md R37 (d)). -/
theorem interruptSound.clear_of_idle {s : State} (h : interruptSound s) (hidle : s.xfer = .idle) :
    s.irqPending = false := by
  by_contra hpending
  obtain ⟨hflight, _⟩ := h (by simpa using hpending)
  rw [hidle] at hflight
  cases hflight

/-- Settles O50: the panel is upright with its whole height as band, and no transfer, interrupt or hold exists. -/
theorem invariantHoldsAtReset : Obligations.InvariantHoldsAtReset where
  admitted := rfl
  size := ⟨rfl, rfl⟩
  band := bandInside_of_panel (by decide) rfl rfl rfl
  phase := nofun
  transfer := transferSound_of_idle rfl
  interrupt := interruptSound_of_clear rfl
  hold := nofun
  emission := fun _ => nofun
  sequencer := rfl
  batch := by simp [State.reset, State.resetWith]
  memory := rfl
  inside := nofun

section
variable {s : State}

/-! Each kind of work keeps the invariant. -/

theorem Invariant.respond (h : Invariant s) (v : Word) : Invariant (respond v s) := { h with }

/-- Frames on an idle bus write the pins and the trace, which the invariant reads only during a transfer. -/
theorem Invariant.onWire (h : Invariant s) (hidle : s.xfer = .idle) (es : List Event) (d : Tag) :
    Invariant (onWire es d s) :=
  { h with transfer := transferSound_of_idle hidle }

/-- A new size and band (42_addressing.md R147): the height of an admitted panel is not 0, and the band is cut to it. -/
theorem Invariant.rotate (h : Invariant s) (hidle : s.xfer = .idle) (rot : BitVec 2) : Invariant (rotate rot s) :=
  { h with
    size := by
      unfold sizeMatchesRotation Machine.rotate
      dsimp only
      split <;> exact ⟨rfl, rfl⟩
    band := by
      obtain ⟨hw, hh, _⟩ := (Params.admitted_iff _).mp h.admitted
      have hcut (height : Half) (hpos : height ≠ 0) :
          umin s.partY0 (umin s.partY1 (height - 1)) ≤ umin s.partY1 (height - 1) ∧
            umin s.partY1 (height - 1) < height := by
        simp only [BitVec.le_def, BitVec.lt_def, toNat_umin]
        bv_omega
      refine hcut _ ?_
      split <;> assumption
    transfer := transferSound_of_idle hidle }

theorem Invariant.partialOn (h : Invariant s) (flag : Bool) : Invariant { s with partialOn := flag } := { h with }

/-- The height of a sound state is not 0: the band's last row is below it (10_state.md R37 (b)). -/
theorem Invariant.height_ne_zero (h : Invariant s) : s.height ≠ 0 := by
  obtain ⟨_, hlast⟩ := h.band
  bv_omega

theorem Invariant.storeBand (h : Invariant s) (y0 y1 : Half) : Invariant (storeBand y0 y1 s) :=
  { h with
    band := by
      obtain ⟨hfirst, hlast⟩ := toNat_bandOf h.height_ne_zero y0 y1
      have hheight := h.height_ne_zero
      simp only [bandInside, Machine.storeBand, BitVec.le_def, BitVec.lt_def, hfirst, hlast]
      bv_omega }

/-- A transfer just started holds the lines and is at its first byte, with no interrupt pending (41_dma.md R120). -/
theorem Invariant.started (h : Invariant s) (hready : s.phase = .ready) {ptr len : Word}
    (hstarts : dmaStarts ptr len s = true) (es : List Event) : Invariant (started es ptr len s) := by
  obtain ⟨hidle, hvalid, _, _⟩ := dmaStarts_iff.mp hstarts
  exact { h with
    transfer := fun _ => ⟨rfl, rfl, rfl, hready, rfl, Nat.zero_le _, hvalid⟩
    interrupt := interruptSound_of_clear (h.interrupt.clear_of_idle hidle) }

/-- The data level driven while a transfer is in flight is the level it holds (42_addressing.md R150). -/
theorem Invariant.drive_data (h : Invariant s) : Invariant (drive (.dc .data) s) :=
  { h with
    transfer := fun hbusy => by
      obtain ⟨hflight, hcs, _, hrest⟩ := h.transfer hbusy
      exact ⟨hflight, hcs, rfl, hrest⟩ }

/-- The state after bring-up is upright, ready and idle (42_addressing.md R141, R152). -/
theorem Invariant.broughtUp (h : Invariant s) : Invariant (broughtUp s) := by
  obtain ⟨_, hpanel, _⟩ := (Params.admitted_iff _).mp h.admitted
  exact { h with
    size := ⟨rfl, rfl⟩
    band := bandInside_of_panel hpanel rfl rfl rfl
    phase := nofun
    transfer := transferSound_of_idle rfl
    interrupt := interruptSound_of_clear rfl
    hold := fun _ => rfl }

/-- The state after `teardown` is that after reset where the invariant reads it; no hold exists (42_addressing.md
R151). -/
theorem Invariant.releaseBlock (h : Invariant s) (hfree : s.mainLine = .free) : Invariant (releaseBlock s) := by
  obtain ⟨_, hpanel, _⟩ := (Params.admitted_iff _).mp h.admitted
  obtain ⟨_, _, _, _, _, _, _, _, _, _, _, hbatch⟩ := releaseBlock_reset s
  exact { h with
    size := ⟨rfl, rfl⟩
    band := bandInside_of_panel hpanel rfl rfl rfl
    phase := nofun
    transfer := transferSound_of_idle rfl
    interrupt := interruptSound_of_clear rfl
    hold := fun (hold : s.mainLine = .waiting) => by rw [hfree] at hold; cases hold
    sequencer := rfl
    batch := hbatch }

/-- An instruction's work keeps the invariant. -/
theorem Invariant.work {i : Instr} {u : State} (h : Invariant s) (hfree : s.mainLine = .free) (hwork : Work i s u) :
    Invariant u := by
  cases hwork with
  | nothing => exact h
  | frames fs d hidle => exact h.onWire hidle _ d
  | draws _ fs d b r j hidle hlength =>
    exact { h with
      transfer := transferSound_of_idle hidle
      sequencer := rfl
      batch := (hlength h.batchPixels_pos h.batch.ge).trans h.batch }
  | rotates rot fs d hidle => exact (h.rotate hidle rot).onWire hidle _ d
  | switchesPartialMode flag fs d hidle => exact (h.partialOn flag).onWire hidle _ d
  | storesBand y0 y1 fs d hidle => exact (h.storeBand y0 y1).onWire hidle _ d
  | pulses => exact { h with }
  | backlight _ v => exact { h with }
  | arms ptr len hready hstarts => exact h.started hready hstarts _
  | drivesData ptr len => exact h.drive_data
  | drivesDataAndArms ptr len hready hstarts => exact h.started hready hstarts _
  | bringsUp => exact h.broughtUp
  | releases => exact h.releaseBlock hfree

/-- An instruction run by a free main line keeps the invariant. -/
theorem Invariant.ends {i : Instr} {t : State} (h : Invariant s) (hfree : s.mainLine = .free) (hends : Ends i s t) :
    Invariant t := by
  cases hends with
  | holds hready _ => exact { h with hold := fun _ => hready, emission := fun _ => nofun }
  | returns hwork _ => exact (h.work hfree hwork).respond _
  | emits _ fs d hidle => exact h.onWire hidle _ d

end

/-- Settles O51: the ways a step can go; no sound state stands at a wire command. -/
theorem stepKeepsTheInvariant : Obligations.StepKeepsTheInvariant := by
  intro s t h hstep
  cases step_stepped hstep with
  | endsHold _ hidle =>
    exact { h with
      transfer := transferSound_of_idle hidle
      hold := nofun
      emission := fun _ => nofun }
  | runs rest latch hline hends =>
    obtain hfree | hemit := hline
    · have haccepted : Invariant { s with inputs := rest, latch := latch, mainLine := .free } :=
        { h with hold := nofun, emission := fun _ => nofun }
      exact haccepted.ends rfl hends
    · exact absurd hemit (h.emission _)
  | handlesInterrupt rest _ =>
    exact { h with
      transfer := transferSound_of_idle rfl
      interrupt := interruptSound_of_clear rfl }
  | clocksByte rest hirq hflight hpos b =>
    exact { h with
      transfer := fun hbusy => by
        obtain ⟨hx, hcs, hdc, hready, hclaimed, _, hvalid⟩ := h.transfer hbusy
        exact ⟨hx, hcs, hdc, hready, hclaimed, by bv_omega, hvalid⟩
      interrupt := interruptSound_of_clear hirq }
  | raisesInterrupt rest hflight hend => exact { h with interrupt := fun _ => ⟨hflight, hend⟩ }
  | passes rest => exact { h with }
  | @hostWrites addr _ _ _ hinside =>
    exact { h with
      memory := writeByte_wf h.memory addr.isLt
      inside := fun cell hcell => by
        obtain rfl | hold := mem_writeByte hcell
        · exact hinside
        · exact h.inside cell hold }
  | answersIllegalCode => exact { h with }

end Sys2Proof.Machine
end

section
/-! The framing discipline of the wire (40_transport.md R100, 00_scope.md R9): which events keep a released chip-select
released, and how each kind of work and each agent leaves the lines. -/

namespace Sys2Proof.Machine

/-- From any lines with chip-select not asserted, these events keep the discipline and leave it so. -/
def KeepsReleased (es : List Event) : Prop :=
  ∀ l : Lines, l.cs ≠ some .asserted → ∃ l', l.after es = some l' ∧ l'.cs ≠ some .asserted

theorem KeepsReleased.nil : KeepsReleased [] := fun l hl => ⟨l, rfl, hl⟩

theorem KeepsReleased.append {es es' : List Event} (h : KeepsReleased es) (h' : KeepsReleased es') :
    KeepsReleased (es ++ es') := by
  intro l hl
  obtain ⟨l₁, hafter, hl₁⟩ := h l hl
  obtain ⟨l₂, hafter', hl₂⟩ := h' l₁ hl₁
  exact ⟨l₂, by rw [Lines.after_append, hafter]; exact hafter', hl₂⟩

theorem keepsReleased_framesEvents (fs : List (Tag × List Byte)) : KeepsReleased (framesEvents fs) := by
  intro l hl
  obtain ⟨l', hafter, hnone, hsome⟩ := Lines.after_frames l fs
  refine ⟨l', hafter, ?_⟩
  by_cases hfs : fs = []
  · rwa [hnone hfs]
  · rw [hsome hfs]; simp

theorem keepsReleased_commandEvents (c : Byte) (params : List Byte) : KeepsReleased (commandEvents c params) := by
  rw [commandEvents_eq_frames]
  exact keepsReleased_framesEvents _

theorem keepsReleased_pauseEvents (ms : Nat) : KeepsReleased (pauseEvents ms) := by
  intro l hl
  unfold pauseEvents
  split <;> exact ⟨l, rfl, hl⟩

theorem keepsReleased_resetPulseEvents (cfg : Params) : KeepsReleased (resetPulseEvents cfg) := fun l hl => ⟨l, rfl, hl⟩

theorem keepsReleased_calibrationEvents (table : List (Byte × List Byte)) :
    KeepsReleased (calibrationEvents table) := by
  induction table with
  | nil => exact .nil
  | cons c table ih => exact (keepsReleased_commandEvents c.1 c.2).append ih

theorem keepsReleased_bringUpCommands (cfg : Params) : KeepsReleased (bringUpCommands cfg) := by
  have paused {k : Nat} {es : List Event} (h : KeepsReleased es) : KeepsReleased (pauseEvents k ++ es) :=
    (keepsReleased_pauseEvents k).append h
  exact (((((((keepsReleased_commandEvents _ _).append (paused (keepsReleased_commandEvents _ _))).append
    (paused (keepsReleased_commandEvents _ _))).append (paused (keepsReleased_commandEvents _ _))).append
    (paused (keepsReleased_calibrationEvents _))).append (paused (keepsReleased_commandEvents _ _))).append
    (paused (keepsReleased_commandEvents _ _))).append (keepsReleased_pauseEvents _)

section
variable {s t : State}

/-- The lines after a trace with more events at its end. -/
theorem linesAfter_append {es es' : List Event} {l : Lines} (h : linesAfter es = some l) :
    linesAfter (es ++ es') = l.after es' := by
  rw [linesAfter, Lines.after_append]
  exact congrArg (Option.bind · fun l => l.after es') h

/-- The discipline reads the trace and the transfer state alone. -/
theorem wellFramed.congr (h : wellFramed s) (htrace : t.trace = s.trace) (hxfer : t.xfer = s.xfer) : wellFramed t := by
  rwa [wellFramed, htrace, hxfer]

/-- Events that keep a released chip-select so, from an idle state to an idle state. -/
theorem wellFramed.idle_append (h : wellFramed s) (hidle : s.xfer = .idle) {es : List Event} (hes : KeepsReleased es)
    (htrace : t.trace = s.trace ++ es) (hxfer : t.xfer = .idle) : wellFramed t := by
  obtain ⟨l, hlines, _, hreleased⟩ := h
  obtain ⟨l', hafter, hl'⟩ := hes l (hreleased hidle)
  refine ⟨l', by rw [htrace, linesAfter_append hlines, hafter], fun hflight => ?_, fun _ => hl'⟩
  rw [hxfer] at hflight
  cases hflight

/-- A release of chip-select ends any transfer's framing (42_addressing.md R141, 60_exceptions.md R218). -/
theorem wellFramed.release (h : wellFramed s) {es : List Event} (hes : KeepsReleased es)
    (htrace : t.trace = s.trace ++ .cs .released :: es) (hxfer : t.xfer = .idle) : wellFramed t := by
  obtain ⟨l, hlines, _, _⟩ := h
  obtain ⟨l', hafter, hl'⟩ := hes { l with cs := some .released } (by simp)
  refine ⟨l', by rw [htrace, linesAfter_append hlines]; exact hafter, fun hflight => ?_, fun _ => hl'⟩
  rw [hxfer] at hflight
  cases hflight

/-- The backlight's event leaves the lines as they are (40_transport.md R107). -/
theorem wellFramed.backlight (h : wellFramed s) (v : Byte) : wellFramed (drive (.bl v) s) := by
  obtain ⟨l, hlines, hl⟩ := h
  exact ⟨l, linesAfter_append hlines, hl⟩

/-- The data level driven is the level a transfer in flight holds already (42_addressing.md R150). -/
theorem wellFramed.drive_data (h : wellFramed s) : wellFramed (drive (.dc .data) s) := by
  obtain ⟨l, hlines, hflight, hidle⟩ := h
  exact ⟨{ l with tag := some .data }, linesAfter_append hlines, fun hx => by rw [hflight hx], hidle⟩

/-- A transfer just started holds chip-select and the data level (41_dma.md R120). -/
theorem wellFramed.started (h : wellFramed s) {es : List Event}
    (hes : ∀ l : Lines, l.after es = some ⟨some .asserted, some .data⟩) (ptr len : Word) :
    wellFramed (started es ptr len s) := by
  obtain ⟨l, hlines, _⟩ := h
  exact ⟨⟨some .asserted, some .data⟩, (linesAfter_append hlines).trans (hes l), fun _ => rfl, nofun⟩

/-- An instruction's work keeps the discipline. -/
theorem wellFramed.work {i : Instr} (h : wellFramed s) (hwork : Work i s t) : wellFramed t := by
  cases hwork with
  | nothing => exact h
  | frames fs d hidle => exact h.idle_append hidle (keepsReleased_framesEvents fs) rfl hidle
  | draws _ fs d b r j hidle _ => exact h.idle_append hidle (keepsReleased_framesEvents fs) rfl hidle
  | rotates rot fs d hidle => exact h.idle_append hidle (keepsReleased_framesEvents fs) rfl hidle
  | switchesPartialMode flag fs d hidle => exact h.idle_append hidle (keepsReleased_framesEvents fs) rfl hidle
  | storesBand y0 y1 fs d hidle => exact h.idle_append hidle (keepsReleased_framesEvents fs) rfl hidle
  | pulses hidle => exact h.idle_append hidle (keepsReleased_resetPulseEvents s.cfg) rfl hidle
  | backlight _ v => exact h.backlight v
  | arms ptr len => exact h.started (fun _ => rfl) ptr len
  | drivesData ptr len => exact h.drive_data
  | drivesDataAndArms ptr len => exact h.started (fun _ => rfl) ptr len
  | bringsUp =>
    have hlit : KeepsReleased [.bl 0] := fun l hl => ⟨l, rfl, hl⟩
    refine h.release ((hlit.append (keepsReleased_resetPulseEvents s.cfg)).append
      (keepsReleased_bringUpCommands s.cfg)) ?_ rfl
    simp [broughtUp]
  | releases _ hidle => exact h.congr rfl hidle.symm

theorem wellFramed.ends {i : Instr} (h : wellFramed s) (hends : Ends i s t) : wellFramed t := by
  cases hends with
  | holds => exact h.congr rfl rfl
  | returns hwork _ => exact (h.work hwork).congr rfl rfl
  | emits _ fs d hidle => exact h.idle_append hidle (keepsReleased_framesEvents fs) rfl hidle

end

/-- Settles O52: the trace after reset is empty, and no transfer is in flight. -/
theorem framingHoldsAtReset : Obligations.FramingHoldsAtReset := ⟨⟨none, none⟩, rfl, nofun, fun _ => nofun⟩

/-- Settles O53: the ways a step can go. The one byte beside the main line is a transfer's, which holds chip-select
and the data level. -/
theorem stepKeepsTheFraming : Obligations.StepKeepsTheFraming := by
  intro s t h hstep
  cases step_stepped hstep with
  | endsHold => exact h.congr rfl rfl
  | runs rest latch _ hends =>
    exact (h.congr (t := { s with inputs := rest, latch := latch, mainLine := .free }) rfl rfl).ends hends
  | handlesInterrupt rest _ => exact h.release .nil rfl rfl
  | clocksByte rest _ hflight _ b =>
    obtain ⟨l, hlines, hheld, hidle⟩ := h
    obtain rfl := hheld hflight
    exact ⟨⟨some .asserted, some .data⟩, linesAfter_append hlines, hheld, hidle⟩
  | raisesInterrupt => exact h.congr rfl rfl
  | passes => exact h.congr rfl rfl
  | hostWrites => exact h.congr rfl rfl
  | answersIllegalCode => exact h.congr rfl rfl

end Sys2Proof.Machine
end

section
/-! What grows, what never changes, and who writes what (10_state.md R21 to R32, R38; 20_memory.md R54). -/

namespace Sys2Proof.Machine

section
variable {i : Instr} {s t u : State}

/-- An instruction's work adds events to the trace; it delivers no response, and writes neither the configuration, nor
host memory, nor what the main line is at, nor the stimuli to come. -/
theorem Work.frame (h : Work i s u) :
    s.trace <+: u.trace ∧ u.responses = s.responses ∧ u.cfg = s.cfg ∧ u.mem = s.mem ∧ u.mainLine = s.mainLine ∧
      u.inputs = s.inputs := by
  cases h with
  | nothing => exact ⟨⟨[], List.append_nil _⟩, rfl, rfl, rfl, rfl, rfl⟩
  | frames | draws | rotates | switchesPartialMode | storesBand | pulses | backlight | drivesData | arms
  | drivesDataAndArms => exact ⟨⟨_, rfl⟩, rfl, rfl, rfl, rfl, rfl⟩
  | bringsUp =>
    exact ⟨⟨[.cs .released, .bl 0] ++ resetPulseEvents s.cfg ++ bringUpCommands s.cfg, by simp [broughtUp]⟩,
      rfl, rfl, rfl, rfl, rfl⟩
  | releases =>
    obtain ⟨hcfg, hmainLine, htrace, hresponses, hmem, hinputs⟩ := releaseBlock_kept s
    exact ⟨⟨[], by rw [htrace, List.append_nil]⟩, hresponses, hcfg, hmem, hmainLine, hinputs⟩

/-- What every instruction leaves alone, and what it only adds to. -/
theorem Ends.frame (h : Ends i s t) :
    s.trace <+: t.trace ∧ s.responses <+: t.responses ∧ t.cfg = s.cfg ∧ t.mem = s.mem ∧ t.inputs = s.inputs := by
  cases h with
  | holds => exact ⟨⟨[], List.append_nil _⟩, ⟨[], List.append_nil _⟩, rfl, rfl, rfl⟩
  | returns hwork _ =>
    obtain ⟨htrace, hresponses, hcfg, hmem, _, hinputs⟩ := hwork.frame
    exact ⟨htrace, ⟨_, by rw [respond_responses, hresponses]⟩, hcfg, hmem, hinputs⟩
  | emits => exact ⟨⟨_, rfl⟩, ⟨[], List.append_nil _⟩, rfl, rfl, rfl⟩

end

/-- Settles O55: what instructions only add to, and the agents' and the host's steps likewise. -/
theorem traceOnlyGrows : Obligations.TraceOnlyGrows := by
  intro s t hstep
  have same {α : Type} (l : List α) : l <+: l := ⟨[], List.append_nil l⟩
  cases step_stepped hstep with
  | endsHold => exact ⟨same _, ⟨_, rfl⟩, rfl⟩
  | runs rest latch _ hends =>
    obtain ⟨htrace, hresponses, hcfg, _, _⟩ := hends.frame
    exact ⟨htrace, hresponses, hcfg⟩
  | handlesInterrupt => exact ⟨⟨_, rfl⟩, same _, rfl⟩
  | clocksByte => exact ⟨⟨_, rfl⟩, same _, rfl⟩
  | raisesInterrupt => exact ⟨same _, same _, rfl⟩
  | passes => exact ⟨same _, same _, rfl⟩
  | hostWrites => exact ⟨same _, same _, rfl⟩
  | answersIllegalCode => exact ⟨same _, ⟨_, rfl⟩, rfl⟩

/-- A write changes no byte but the one it names, in a memory of any form. -/
theorem readByte_writeByte_of_ne {m : Memory} {a x : Nat} {b : Byte} (hne : x ≠ a) :
    readByte (writeByte m a b) x = readByte m x := by
  have hcell (rest : Memory) : readByte (memoryCell a b rest) x = readByte rest x := by
    unfold memoryCell
    split
    · rfl
    · rw [readByte_cons, if_neg hne]
  induction m with
  | nil => exact hcell []
  | cons e rest ih =>
    obtain ⟨addr, old⟩ := e
    unfold writeByte
    split
    · exact hcell _
    · split
      · next heq => rw [hcell, readByte_cons, if_neg (heq ▸ hne)]
      · rw [readByte_cons, readByte_cons, ih]

/-- Settles O56: no instruction writes host memory, nor does an agent's step; the host's write changes the byte it
names. -/
theorem theBlockNeverWritesHostMemory : Obligations.TheBlockNeverWritesHostMemory := by
  constructor
  · intro i s t hrun a
    obtain ⟨_, _, _, hmem, _⟩ := (exec_ends hrun).frame
    rw [hmem]
  · intro s t a hstep hchanged
    cases step_stepped hstep with
    | endsHold => exact absurd rfl hchanged
    | runs rest latch _ hends =>
      obtain ⟨_, _, _, hmem, _⟩ := hends.frame
      exact absurd (congrArg (readByte · a) hmem) hchanged
    | handlesInterrupt => exact absurd rfl hchanged
    | clocksByte => exact absurd rfl hchanged
    | raisesInterrupt => exact absurd rfl hchanged
    | passes => exact absurd rfl hchanged
    | @hostWrites addr b rest hin _ =>
      refine ⟨addr, b, rest, hin, ?_⟩
      by_contra hne
      exact hchanged (readByte_writeByte_of_ne (Ne.symm hne))
    | answersIllegalCode => exact absurd rfl hchanged

end Sys2Proof.Machine
end

section
/-! Responses (30_encoding.md R73) and writers (10_state.md R22 to R32, 42_addressing.md R152): which instruction can
have changed which field, one lemma per group of fields with the same writers. -/

namespace Sys2Proof.Machine

theorem boolResult_eq_zero_or_one (b : Bool) : boolResult b = 0 ∨ boolResult b = 1 := by
  cases b
  · exact .inl rfl
  · exact .inr rfl

/-- A colour's response word has bits 17 to 0 only (30_encoding.md R73). -/
theorem toNat_colorResult_lt (value : BitVec 18) : (colorResult value).toNat < 2 ^ 18 := by
  rw [colorResult, BitVec.toNat_setWidth_of_le (by decide)]
  exact value.isLt

/-- Settles O7: how an instruction ends. A wire command ends without a response and has no descriptor. -/
theorem eachOperationDeliversOneResponse : Obligations.EachOperationDeliversOneResponse := by
  intro i d s t hencode hrun
  cases exec_ends hrun with
  | holds _ hbusy => exact .inl ⟨rfl, hbusy, rfl⟩
  | emits hwire => exact absurd hencode (hwire d)
  | @returns _ _ u v hwork hanswers =>
    obtain ⟨_, hresponses, _, _, hmainLine, _⟩ := hwork.frame
    refine .inr ⟨v, by rw [respond_responses, hresponses], hmainLine, ?_⟩
    cases i with
    | rgb565ToRgb666 | rgb888ToRgb666 => obtain ⟨value, rfl⟩ := hanswers; exact toNat_colorResult_lt value
    | initializeBlock => obtain ⟨b, rfl⟩ := hanswers; exact boolResult_eq_zero_or_one b
    | writeDataDMA | writeDMA | isTransferBusy => exact hanswers ▸ boolResult_eq_zero_or_one _
    | _ => exact hanswers

section
variable {i : Instr} {s t u : State}

/-! The writers of each group of fields: the field is as it was, or the instruction is one of its writers. -/

theorem Work.phase_writers (h : Work i s u) : u.phase = s.phase ∨ i = .teardown ∨ ∃ ptr, i = .initializeBlock ptr := by
  cases h with
  | bringsUp ptr => exact .inr (.inr ⟨ptr, rfl⟩)
  | releases => exact .inr (.inl rfl)
  | _ => exact .inl rfl

theorem Work.size_writers (h : Work i s u) : (u.rotation = s.rotation ∧ u.width = s.width ∧ u.height = s.height) ∨
    (i = .teardown ∨ ∃ ptr, i = .initializeBlock ptr) ∨ ∃ rot, i = .setRotation rot := by
  cases h with
  | rotates rot => exact .inr (.inr ⟨rot, rfl⟩)
  | bringsUp ptr => exact .inr (.inl (.inr ⟨ptr, rfl⟩))
  | releases => exact .inr (.inl (.inl rfl))
  | _ => exact .inl ⟨rfl, rfl, rfl⟩

theorem Work.partialOn_writers (h : Work i s u) : u.partialOn = s.partialOn ∨
    (i = .teardown ∨ ∃ ptr, i = .initializeBlock ptr) ∨ ∃ flag, i = .setPartialMode flag := by
  cases h with
  | switchesPartialMode flag => exact .inr (.inr ⟨flag, rfl⟩)
  | bringsUp ptr => exact .inr (.inl (.inr ⟨ptr, rfl⟩))
  | releases => exact .inr (.inl (.inl rfl))
  | _ => exact .inl rfl

theorem Work.band_writers (h : Work i s u) : (u.partY0 = s.partY0 ∧ u.partY1 = s.partY1) ∨
    (i = .teardown ∨ ∃ ptr, i = .initializeBlock ptr) ∨ (∃ rot, i = .setRotation rot) ∨
      ∃ y0 y1, i = .setPartialArea y0 y1 := by
  cases h with
  | rotates rot => exact .inr (.inr (.inl ⟨rot, rfl⟩))
  | storesBand y0 y1 => exact .inr (.inr (.inr ⟨y0, y1, rfl⟩))
  | bringsUp ptr => exact .inr (.inl (.inr ⟨ptr, rfl⟩))
  | releases => exact .inr (.inl (.inl rfl))
  | _ => exact .inl ⟨rfl, rfl⟩

theorem Work.transfer_writers (h : Work i s u) : (u.xfer = s.xfer ∧ u.dmaClaimed = s.dmaClaimed) ∨
    (i = .teardown ∨ ∃ ptr, i = .initializeBlock ptr) ∨
      ∃ ptr len, i = .writeDataDMA ptr len ∨ i = .writeDMA ptr len := by
  cases h with
  | arms ptr len => exact .inr (.inr ⟨ptr, len, .inl rfl⟩)
  | drivesDataAndArms ptr len => exact .inr (.inr ⟨ptr, len, .inr rfl⟩)
  | bringsUp ptr => exact .inr (.inl (.inr ⟨ptr, rfl⟩))
  | releases => exact .inr (.inl (.inl rfl))
  | _ => exact .inl ⟨rfl, rfl⟩

theorem Work.dma_writers (h : Work i s u) : (u.dmaPtr = s.dmaPtr ∧ u.dmaLen = s.dmaLen ∧ u.dmaPos = s.dmaPos) ∨
    i = .teardown ∨ ∃ ptr len, i = .writeDataDMA ptr len ∨ i = .writeDMA ptr len := by
  cases h with
  | arms ptr len => exact .inr (.inr ⟨ptr, len, .inl rfl⟩)
  | drivesDataAndArms ptr len => exact .inr (.inr ⟨ptr, len, .inr rfl⟩)
  | releases => exact .inr (.inl rfl)
  | _ => exact .inl ⟨rfl, rfl, rfl⟩

theorem Work.irqPending_writers (h : Work i s u) :
    u.irqPending = s.irqPending ∨ i = .teardown ∨ ∃ ptr, i = .initializeBlock ptr := by
  cases h with
  | bringsUp ptr => exact .inr (.inr ⟨ptr, rfl⟩)
  | releases => exact .inr (.inl rfl)
  | _ => exact .inl rfl

theorem Work.rst_writers (h : Work i s u) :
    u.rst = s.rst ∨ (i = .teardown ∨ ∃ ptr, i = .initializeBlock ptr) ∨ i = .reset := by
  cases h with
  | pulses => exact .inr (.inr rfl)
  | bringsUp ptr => exact .inr (.inl (.inr ⟨ptr, rfl⟩))
  | releases => exact .inr (.inl (.inl rfl))
  | _ => exact .inl rfl

theorem Work.bl_writers (h : Work i s u) : u.bl = s.bl ∨ (i = .teardown ∨ ∃ ptr, i = .initializeBlock ptr) ∨
    (∃ flag, i = .setBacklight flag) ∨ ∃ level, i = .setBacklightBrightness level := by
  cases h with
  | backlight hi => exact .inr (.inr hi)
  | bringsUp ptr => exact .inr (.inl (.inr ⟨ptr, rfl⟩))
  | releases => exact .inr (.inl (.inl rfl))
  | _ => exact .inl rfl

theorem Work.sequencer_writers (h : Work i s u) :
    (u.batch = s.batch ∧ u.seqState = s.seqState ∧ u.seqRemaining = s.seqRemaining ∧ u.seqIndex = s.seqIndex) ∨
      i = .teardown ∨ i.draws = true := by
  cases h with
  | draws hdraws => exact .inr (.inr hdraws)
  | releases => exact .inr (.inl rfl)
  | _ => exact .inl ⟨rfl, rfl, rfl, rfl⟩

theorem Work.latch_writers (h : Work i s u) : (u.latch = s.latch ∧ u.freeIndex = s.freeIndex) ∨ i = .teardown := by
  cases h with
  | releases => exact .inr rfl
  | _ => exact .inl ⟨rfl, rfl⟩

/-- The eight drawing operations, written out (44_drawing.md R183 to R190). -/
theorem exists_of_draws (h : i.draws = true) :
    (∃ x y c, i = .drawPixel x y c) ∨ (∃ x y c, i = .drawPixelRGB24 x y c) ∨
      (∃ x0 y0 x1 y1 c, i = .fillArea x0 y0 x1 y1 c) ∨ (∃ x0 y0 x1 y1 c, i = .fillAreaRGB24 x0 y0 x1 y1 c) ∨
      (∃ c, i = .fillScreen c) ∨ (∃ c, i = .fillScreenRGB24 c) ∨
      (∃ x0 y0 x1 y1 p n, i = .writePixels x0 y0 x1 y1 p n) ∨
      (∃ x0 y0 x1 y1 p n, i = .writePixelsRGB24 x0 y0 x1 y1 p n) := by
  cases i <;> simp_all [Instr.draws]

/-- An instruction's end is its work, followed by writes to the responses and to what the main line is at. -/
theorem Ends.work (h : Ends i s t) :
    ∃ u, Work i s u ∧ ∃ line responses, t = { u with mainLine := line, responses := responses } ∧
      (line = s.mainLine ∨ i = .waitTransferIdle) := by
  cases h with
  | holds => exact ⟨s, .nothing, _, _, rfl, .inr rfl⟩
  | @returns _ _ u v hwork _ =>
    obtain ⟨_, _, _, _, hmainLine, _⟩ := hwork.frame
    exact ⟨u, hwork, u.mainLine, _, rfl, .inl hmainLine⟩
  | emits _ fs d hidle => exact ⟨_, .frames fs d hidle, _, _, rfl, .inl rfl⟩

/-! The engine's life cycle (42_addressing.md R152). -/

theorem Work.enters_ready (h : Work i s u) (hbefore : s.phase ≠ .ready) (hafter : u.phase = .ready) :
    (∃ ptr, i = .initializeBlock ptr ∧ ptr ≠ 0) ∧ u = broughtUp s := by
  cases h with
  | bringsUp ptr hptr => exact ⟨⟨ptr, rfl, hptr⟩, rfl⟩
  | releases hready => exact absurd hready hbefore
  | _ => exact absurd hafter hbefore

theorem Work.leaves_ready (h : Work i s u) (hbefore : s.phase = .ready) (hafter : u.phase ≠ .ready) :
    i = .teardown ∧ u = releaseBlock s := by
  cases h with
  | bringsUp ptr _ hphase => exact absurd hbefore hphase
  | releases => exact ⟨rfl, rfl⟩
  | _ => exact absurd hbefore hafter

end

/-- Settles O57: a clause per group of fields, from the lemma about that group's writers. -/
theorem eachFieldHasItsWriters : Obligations.EachFieldHasItsWriters := by
  intro i s t hrun
  have hends := exec_ends hrun
  obtain ⟨_, _, _, _, hinputs⟩ := hends.frame
  obtain ⟨u, hwork, line, responses, rfl, hline⟩ := hends.work
  have changed {p q : Prop} (hp : p ∨ q) (hnot : ¬p) : q := hp.resolve_left hnot
  exact ⟨changed hwork.phase_writers,
    fun h => changed hwork.size_writers (by tauto),
    changed hwork.partialOn_writers,
    fun h => changed hwork.band_writers (by tauto),
    fun h => changed hwork.transfer_writers (by tauto),
    fun h => changed hwork.dma_writers (by tauto),
    changed hwork.irqPending_writers,
    changed hwork.rst_writers,
    changed hwork.bl_writers,
    fun h => (changed hwork.sequencer_writers (by tauto)).imp_right exists_of_draws,
    fun h => changed hwork.latch_writers (by tauto),
    changed hline, hinputs⟩

/-- Settles O58: `Ready` is entered by the bring-up sequence alone, and left by `teardown` alone. -/
theorem readyIsEnteredUprightAndLeftByTeardown : Obligations.ReadyIsEnteredUprightAndLeftByTeardown := by
  intro i s t hrun
  obtain ⟨u, hwork, line, responses, rfl, _⟩ := (exec_ends hrun).work
  constructor
  · intro hbefore hafter
    obtain ⟨hi, rfl⟩ := hwork.enters_ready hbefore hafter
    exact ⟨hi, rfl, rfl, rfl, rfl⟩
  · intro hbefore hafter
    obtain ⟨hi, rfl⟩ := hwork.leaves_ready hbefore hafter
    exact ⟨hi, rfl⟩

end Sys2Proof.Machine
end

section
/-! Mutual exclusion (41_dma.md R126) and the end of a transfer (10_state.md R26): what is left of an instruction's work
while a transfer is not idle. -/

namespace Sys2Proof.Machine

section
variable {i : Instr} {s t u : State}

/-- In phase `Ready`, with a transfer not idle, an instruction does nothing, sets the backlight or drives the data
level: every other work needs an idle transfer or another phase (41_dma.md R126). -/
theorem Work.busy_cases (h : Work i s u) (hready : s.phase = .ready) (hbusy : s.xfer ≠ .idle) :
    u = s ∨ (∃ v, u = drive (.bl v) s) ∨ u = drive (.dc .data) s := by
  cases h with
  | nothing => exact .inl rfl
  | backlight _ v => exact .inr (.inl ⟨v, rfl⟩)
  | drivesData => exact .inr (.inr rfl)
  | frames _ _ hidle | draws _ _ _ _ _ _ hidle | rotates _ _ _ hidle | switchesPartialMode _ _ _ hidle
  | storesBand _ _ _ _ hidle | pulses hidle | releases _ hidle => exact absurd hidle hbusy
  | arms _ _ _ hstarts | drivesDataAndArms _ _ _ hstarts => exact absurd (dmaStarts_iff.mp hstarts).1 hbusy
  | bringsUp _ _ hphase => exact absurd hready hphase

/-- While a transfer is not idle no instruction touches it, and what it drives is the data level or the backlight. -/
theorem Ends.busy (h : Ends i s t) (hready : s.phase = .ready) (hbusy : s.xfer ≠ .idle) :
    (∃ es, t.trace = s.trace ++ es ∧ ∀ e ∈ es, e = .dc .data ∨ ∃ v, e = .bl v) ∧
      t.xfer = s.xfer ∧ t.dmaPtr = s.dmaPtr ∧ t.dmaLen = s.dmaLen ∧ t.dmaPos = s.dmaPos ∧
      t.irqPending = s.irqPending ∧ t.cs = s.cs := by
  obtain ⟨u, hwork, line, responses, rfl, _⟩ := h.work
  obtain rfl | ⟨v, rfl⟩ | rfl := hwork.busy_cases hready hbusy
  · exact ⟨⟨[], (List.append_nil _).symm, by simp⟩, rfl, rfl, rfl, rfl, rfl, rfl⟩
  · exact ⟨⟨[.bl v], rfl, by simp⟩, rfl, rfl, rfl, rfl, rfl, rfl⟩
  · exact ⟨⟨[.dc .data], rfl, by simp⟩, rfl, rfl, rfl, rfl, rfl, rfl⟩

/-- Every request for a transfer that finds one not idle is answered false (41_dma.md R120). -/
theorem Ends.second_transfer (h : Ends i s t) (hbusy : s.xfer ≠ .idle) {ptr len : Word}
    (hi : i = .writeDataDMA ptr len ∨ i = .writeDMA ptr len) : t.responses = s.responses ++ [0] := by
  have hstarts : dmaStarts ptr len s = false := by
    by_contra hstarts
    exact hbusy (dmaStarts_iff.mp (by simpa using hstarts)).1
  cases h with
  | holds => simp at hi
  | emits hwire => obtain rfl | rfl := hi <;> exact absurd rfl (hwire _)
  | @returns _ _ u v hwork hanswers =>
    obtain ⟨_, hresponses, _⟩ := hwork.frame
    have hv : v = boolResult (dmaStarts ptr len s) := by obtain rfl | rfl := hi <;> exact hanswers
    rw [respond_responses, hresponses, hv, hstarts]
    rfl

end

/-- Settles O24: what is left of an instruction's end while a transfer is not idle. -/
theorem busyMainLineDrivesNoBus : Obligations.BusyMainLineDrivesNoBus := by
  intro i s t hready hbusy hrun
  have hends := exec_ends hrun
  obtain ⟨htrace, hxfer, hptr, hlen, hpos, hirq, hcs⟩ := hends.busy hready hbusy
  exact ⟨htrace, hxfer, hptr, hlen, hpos, hirq, hcs, fun ptr len => hends.second_transfer hbusy⟩

/-- Settles O25: of the ways a step can go, the handler's alone leaves a transfer in flight otherwise. -/
theorem onlyTheHandlerEndsATransfer : Obligations.OnlyTheHandlerEndsATransfer := by
  intro s t hready hflight hstep hended
  have hbusy : s.xfer ≠ .idle := by rw [hflight]; nofun
  cases step_stepped hstep with
  | handlesInterrupt rest hirq => exact ⟨hirq, rfl, rfl, rfl, rfl, rfl⟩
  | endsHold _ hidle => exact absurd hidle hbusy
  | runs rest latch _ hends =>
    obtain ⟨_, hxfer, _⟩ := hends.busy hready hbusy
    exact absurd (hxfer.trans hflight) hended
  | clocksByte | raisesInterrupt | passes | hostWrites | answersIllegalCode => exact absurd hflight hended

end Sys2Proof.Machine
end

section
/-! Encoding (30_encoding.md R70 to R91): an encoded descriptor's latch holds the fields it was made from, and so the
decoder's arm for its code reads the operands back. -/

namespace Sys2Proof

/-- A value widened to a field and cut back (30_encoding.md R72). -/
theorem extractLsb'_setWidth_self {n m : Nat} (h : n ≤ m) (x : BitVec n) : (x.setWidth m).extractLsb' 0 n = x :=
  (BitVec.extractLsb'_setWidth_of_le (by omega)).trans BitVec.extractLsb'_eq_self

/-- The latch of a descriptor made from fields holds those fields (30_encoding.md R70). -/
theorem decode_describe (code : Byte) (imm : Imm) (x0 y0 x1 y1 : Half) (ptr len : Word) :
    decode (describe code imm x0 y0 x1 y1 ptr len) = decodeOperands ⟨code, imm, x0, y0, x1, y1, ptr, len⟩ := by
  have hword0 : (word0 code imm).extractLsb' 24 8 = code ∧ (word0 code imm).extractLsb' 0 24 = imm :=
    ⟨BitVec.extractLsb'_append_eq_left, BitVec.extractLsb'_append_eq_right⟩
  have hwordXY (x y : Half) : (wordXY x y).extractLsb' 16 16 = x ∧ (wordXY x y).extractLsb' 0 16 = y :=
    ⟨BitVec.extractLsb'_append_eq_left, BitVec.extractLsb'_append_eq_right⟩
  simp only [describe, decode, decodeDescriptor, Descriptor.operands, hword0, hwordXY]

section
variable (code : Byte) (x0 y0 x1 y1 : Half) (ptr len : Word)

/-! The sub-fields of an immediate made from a narrower value (30_encoding.md R72). -/

theorem immByte_setWidth (b : Byte) : OperandLatch.immByte ⟨code, b.setWidth 24, x0, y0, x1, y1, ptr, len⟩ = b :=
  extractLsb'_setWidth_self (by decide) b

theorem immRot_setWidth (rot : BitVec 2) :
    OperandLatch.immRot ⟨code, rot.setWidth 24, x0, y0, x1, y1, ptr, len⟩ = rot :=
  extractLsb'_setWidth_self (by decide) rot

theorem imm565_setWidth (c565 : Half) :
    OperandLatch.imm565 ⟨code, c565.setWidth 24, x0, y0, x1, y1, ptr, len⟩ = c565 :=
  extractLsb'_setWidth_self (by decide) c565

theorem immFlag_setWidth (flag : Bool) :
    OperandLatch.immFlag ⟨code, (BitVec.ofBool flag).setWidth 24, x0, y0, x1, y1, ptr, len⟩ = flag := by
  simp [OperandLatch.immFlag]

end

/-! A bound's two bytes put together again (20_memory.md R56). -/

theorem ofBigEndian_bytes (v : Half) : ofBigEndian (hi8 v) (lo8 v) = v :=
  (BitVec.extractLsb'_append_extractLsb'_eq_extractLsb' rfl).trans BitVec.extractLsb'_eq_self

end Sys2Proof

namespace Sys2Proof.Machine

/-- Settles O1: a host operation's fields come back through the latch, a wire command's bounds through their bytes. -/
theorem decodeEncodeRoundTrip : Obligations.DecodeEncodeRoundTrip := by
  intro i
  cases i with
  | writeCommand byte | writeData byte | setBacklightBrightness byte =>
    exact (decode_describe ..).trans (by simp [decodeOperands, immByte_setWidth])
  | setBacklight flag | setPartialMode flag =>
    exact (decode_describe ..).trans (by simp [decodeOperands, immFlag_setWidth])
  | setRotation rot => exact (decode_describe ..).trans (by simp [decodeOperands, immRot_setWidth])
  | drawPixel _ _ c565 | fillArea _ _ _ _ c565 | fillScreen c565 | rgb565ToRgb666 c565 =>
    exact (decode_describe ..).trans (by simp [decodeOperands, imm565_setWidth])
  | writeDataBuffer | writeDataDMA | isTransferBusy | waitTransferIdle | reset | initializeBlock | setWindow
  | setPartialArea | writeDMA | teardown | drawPixelRGB24 | fillAreaRGB24 | fillScreenRGB24 | writePixels
  | writePixelsRGB24 | rgb888ToRgb666 => exact decode_describe ..
  | wireColumnAddressSet a b =>
    calc decode (encode (.wireColumnAddressSet a b))
        = .ok (.wireColumnAddressSet (ofBigEndian (hi8 a) (lo8 a)) (ofBigEndian (hi8 b) (lo8 b))) := rfl
      _ = .ok (.wireColumnAddressSet a b) := by rw [ofBigEndian_bytes, ofBigEndian_bytes]
  | wireRowAddressSet a b =>
    calc decode (encode (.wireRowAddressSet a b))
        = .ok (.wireRowAddressSet (ofBigEndian (hi8 a) (lo8 a)) (ofBigEndian (hi8 b) (lo8 b))) := rfl
      _ = .ok (.wireRowAddressSet a b) := by rw [ofBigEndian_bytes, ofBigEndian_bytes]
  | wirePartialArea a b =>
    calc decode (encode (.wirePartialArea a b))
        = .ok (.wirePartialArea (ofBigEndian (hi8 a) (lo8 a)) (ofBigEndian (hi8 b) (lo8 b))) := rfl
      _ = .ok (.wirePartialArea a b) := by rw [ofBigEndian_bytes, ofBigEndian_bytes]
  | wireReset | wireSleepOut | wirePartialModeOn | wireNormalModeOn | wireDisplayInvertOn | wireDisplayOn
  | wireMemoryWrite | wireMemoryAccessControl | wirePixelFormat => rfl

/-- Settles O2: each word list is small and closed, so the decoder is run on it. -/
theorem writtenOutWordsDecode : Obligations.WrittenOutWordsDecode := by
  unfold Obligations.WrittenOutWordsDecode
  decide

end Sys2Proof.Machine
end

section
/-! No step reads an unspecified value (10_state.md R36). `SameButUnspecified` is carried through every update, every
operation that can stop, every instruction and every agent's step: a commuting diagram with two runs side by side. -/

namespace Sys2Proof.Machine

/-- Two runs that agree: the same stop, or states that differ at most in what is unspecified. -/
def SameRun : Except Fault State → Except Fault State → Prop
  | .ok u, .ok v => SameButUnspecified u v
  | .error k, .error k' => k = k'
  | _, _ => False

/-- The two ways for runs to agree. -/
theorem SameRun.ok_or_error {r r' : Except Fault State} (h : SameRun r r') :
    (∃ u v, r = .ok u ∧ r' = .ok v ∧ SameButUnspecified u v) ∨ ∃ k, r = .error k ∧ r' = .error k := by
  cases r with
  | ok u =>
    cases r' with
    | ok v => exact .inl ⟨u, v, rfl, rfl, h⟩
    | error => exact h.elim
  | error k =>
    cases r' with
    | ok => exact h.elim
    | error k' => obtain rfl : k = k' := h; exact .inr ⟨k, rfl, rfl⟩

/-- Two runs in a row agree where the second agrees on every pair of states that the first can hand it. -/
theorem SameRun.bind {r r' : Except Fault State} {op op' : State → Except Fault State} (hr : SameRun r r')
    (hop : ∀ u v, r = .ok u → r' = .ok v → SameButUnspecified u v → SameRun (op u) (op' v)) :
    SameRun (r >>= op) (r' >>= op') := by
  obtain ⟨u, v, rfl, rfl, hsame⟩ | ⟨k, rfl, rfl⟩ := hr.ok_or_error
  · exact hop u v rfl rfl hsame
  · exact rfl

theorem sameOutcome_conclude {r r' : Except Fault State} (hr : SameRun r r') (v : Word) :
    SameOutcome (conclude v r) (conclude v r') := by
  obtain ⟨u, u', rfl, rfl, hsame⟩ | ⟨k, rfl, rfl⟩ := hr.ok_or_error
  · exact { hsame with responses := congrArg (· ++ [v]) hsame.responses }
  · exact rfl

section
variable {s t : State}

theorem SameButUnspecified.respond (h : SameButUnspecified s t) (v : Word) :
    SameButUnspecified (respond v s) (respond v t) :=
  { h with responses := congrArg (· ++ [v]) h.responses }

/-- Events on the wire, with the pins at any levels (10_state.md R29, R38). -/
theorem SameButUnspecified.onWire (h : SameButUnspecified s t) (es : List Event) (d : Tag) :
    SameButUnspecified (onWire es d s) (onWire es d t) :=
  { h with trace := congrArg (· ++ es) h.trace }

theorem SameButUnspecified.drive_bl (h : SameButUnspecified s t) (v : Byte) :
    SameButUnspecified (drive (.bl v) s) (drive (.bl v) t) :=
  { h with trace := congrArg (· ++ [Event.bl v]) h.trace }

theorem SameButUnspecified.drive_dc (h : SameButUnspecified s t) (d : Tag) :
    SameButUnspecified (drive (.dc d) s) (drive (.dc d) t) :=
  { h with trace := congrArg (· ++ [Event.dc d]) h.trace }

theorem SameButUnspecified.started (h : SameButUnspecified s t) (es : List Event) (ptr len : Word) :
    SameButUnspecified (started es ptr len s) (started es ptr len t) :=
  { h with
    xfer := rfl
    dmaClaimed := rfl
    dma := fun _ => ⟨rfl, rfl, rfl⟩
    trace := congrArg (· ++ es) h.trace }

theorem SameButUnspecified.rotate (h : SameButUnspecified s t) (rot : BitVec 2) :
    SameButUnspecified (rotate rot s) (rotate rot t) :=
  { h with
    width := by simp only [Machine.rotate, h.cfg]
    height := by simp only [Machine.rotate, h.cfg]
    rotation := rfl
    partY0 := by simp only [Machine.rotate, h.cfg, h.partY0, h.partY1]
    partY1 := by simp only [Machine.rotate, h.cfg, h.partY1] }

theorem SameButUnspecified.bandOf (h : SameButUnspecified s t) (y0 y1 : Half) : bandOf y0 y1 s = bandOf y0 y1 t := by
  simp only [Machine.bandOf, h.height]

theorem SameButUnspecified.storeBand (h : SameButUnspecified s t) (y0 y1 : Half) :
    SameButUnspecified (storeBand y0 y1 s) (storeBand y0 y1 t) :=
  { h with
    partY0 := congrArg Prod.fst (h.bandOf y0 y1)
    partY1 := congrArg Prod.snd (h.bandOf y0 y1) }

theorem SameButUnspecified.broughtUp (h : SameButUnspecified s t) :
    SameButUnspecified (broughtUp s) (broughtUp t) :=
  { h with
    phase := rfl
    width := congrArg Params.panelW h.cfg
    height := congrArg Params.panelH h.cfg
    rotation := rfl
    partialOn := rfl
    partY0 := rfl
    partY1 := congrArg (fun cfg => cfg.panelH - 1) h.cfg
    xfer := rfl
    dmaClaimed := rfl
    dma := fun hbusy => absurd rfl hbusy
    irqPending := rfl
    trace := by simp only [Machine.broughtUp, h.cfg, h.trace] }

/-- The free values two instances draw at `teardown` may differ: all of them are unspecified (42_addressing.md R151). -/
theorem SameButUnspecified.releaseBlock (h : SameButUnspecified s t) :
    SameButUnspecified (releaseBlock s) (releaseBlock t) :=
  { h with
    phase := rfl
    width := congrArg Params.panelW h.cfg
    height := congrArg Params.panelH h.cfg
    rotation := rfl
    partialOn := rfl
    partY0 := rfl
    partY1 := congrArg (fun cfg => cfg.panelH - 1) h.cfg
    xfer := rfl
    dmaClaimed := rfl
    dma := fun hbusy => absurd rfl hbusy
    irqPending := rfl }

/-! The shared operations: framing, the window, the batch sequencer. -/

theorem sameRun_frame (h : SameButUnspecified s t) (d : Tag) (bytes : List Byte) :
    SameRun (frame d bytes s) (frame d bytes t) := by
  rw [frame_eq, frame_eq, h.xfer]
  split
  · exact h.onWire _ _
  · rfl

theorem sameRun_sendCmd (h : SameButUnspecified s t) (c : Byte) (params : List Byte) :
    SameRun (sendCmd c params s) (sendCmd c params t) := by
  refine (sameRun_frame h .command [c]).bind fun u v _ _ hsame => ?_
  split
  · exact hsame
  · exact sameRun_frame hsame .data params

theorem sameRun_resetPulse (h : SameButUnspecified s t) : SameRun (resetPulse s) (resetPulse t) := by
  by_cases hidle : s.xfer = .idle
  · rw [resetPulse_idle hidle, resetPulse_idle (h.xfer ▸ hidle)]
    exact { h with trace := by simp only [h.cfg, h.trace] }
  · rw [resetPulse_busy hidle, resetPulse_busy (h.xfer ▸ hidle)]
    rfl

theorem sameRun_emitWindow (h : SameButUnspecified s t) (w : Rect) : SameRun (emitWindow w s) (emitWindow w t) :=
  (sameRun_sendCmd h _ _).bind fun _ _ _ _ hcolumns =>
    (sameRun_sendCmd hcolumns _ _).bind fun _ _ _ _ hrows => sameRun_sendCmd hrows _ _

/-- The batch sequencer's registers are unspecified, but for the part of the buffer a frame sends. -/
theorem sameRun_streamBatch (h : SameButUnspecified s t) {k : Nat}
    (hbatch : s.batch.take (3 * k) = t.batch.take (3 * k)) :
    SameRun (streamBatch k s) (streamBatch k t) := by
  rw [streamBatch, streamBatch, hbatch]
  exact sameRun_frame (s := enterSeq .seqStream s) (t := enterSeq .seqStream t) { h with } .data _

/-- One frame from the batch buffer leaves the buffer as it is (44_drawing.md R180). -/
theorem streamBatch_batch {k : Nat} {u : State} (hu : streamBatch k s = .ok u) : u.batch = s.batch := by
  obtain ⟨_, fs, _, rfl⟩ := streamBatch_ok hu
  rfl

/-- The loop of `StreamFill` sends only what it has primed: the first `m` pixels of the buffer, on which the two
instances agree (44_drawing.md R181). -/
theorem sameRun_fillLoop (h : SameButUnspecified s t) (fuel : Nat) {n m : Nat}
    (hm : min n s.cfg.batchPixels.toNat ≤ m) (hbatch : s.batch.take (3 * m) = t.batch.take (3 * m)) :
    SameRun (fillLoop fuel n s) (fillLoop fuel n t) := by
  induction fuel generalizing n s t with
  | zero => exact h
  | succ fuel ih =>
    by_cases hdone : n = 0
    · simp only [fillLoop, if_pos hdone]
      exact h
    · simp only [fillLoop, if_neg hdone, ← h.cfg]
      have hsent : s.batch.take (3 * min n s.cfg.batchPixels.toNat) =
          t.batch.take (3 * min n s.cfg.batchPixels.toNat) := by
        have hle : 3 * min n s.cfg.batchPixels.toNat ≤ 3 * m := by omega
        rw [← Nat.min_eq_left hle, ← List.take_take, ← List.take_take, hbatch]
      refine (sameRun_streamBatch h hsent).bind fun u v hu hv hsame => ?_
      have hcfg : u.cfg = s.cfg := by obtain ⟨_, fs, _, rfl⟩ := streamBatch_ok hu; rfl
      refine ih (s := setRemaining _ u) (t := setRemaining _ v) { hsame with } ?_ ?_
      · rw [setRemaining_cfg, hcfg]
        omega
      · rw [setRemaining_batch, setRemaining_batch, streamBatch_batch hu, streamBatch_batch hv, hbatch]

theorem sameRun_streamFill (h : SameButUnspecified s t) (n : Nat) {p : List Byte} (hp : p.length = 3) :
    SameRun (streamFill n p s) (streamFill n p t) := by
  have hprimed (u : State) : (primeBatch (rep (min n s.cfg.batchPixels.toNat) p) u).batch.take
      (3 * min n s.cfg.batchPixels.toNat) = rep (min n s.cfg.batchPixels.toNat) p :=
    rep_take hp le_rfl _
  rw [streamFill, streamFill, ← h.cfg]
  exact sameRun_fillLoop (s := setRemaining n (primeBatch (rep (min n s.cfg.batchPixels.toNat) p) s))
    (t := setRemaining n (primeBatch (rep (min n s.cfg.batchPixels.toNat) p) t))
    { h with } n le_rfl ((hprimed s).trans (hprimed t).symm)

/-- Each pass of `StreamPixels` primes all that it sends (44_drawing.md R182). -/
theorem sameRun_pixelLoop (h : SameButUnspecified s t) {pixel : Nat → List Byte} (hp : ∀ q, (pixel q).length = 3)
    (n fuel i : Nat) : SameRun (pixelLoop n pixel fuel i s) (pixelLoop n pixel fuel i t) := by
  induction fuel generalizing i s t with
  | zero => exact h
  | succ fuel ih =>
    by_cases hdone : n ≤ i
    · simp only [pixelLoop, if_pos hdone]
      exact h
    · simp only [pixelLoop, if_neg hdone, ← h.cfg]
      have hprimed (k : Nat) (u : State) :
          (primeBatch ((List.range k).flatMap fun j => pixel (i + j)) u).batch.take (3 * k) =
            (List.range k).flatMap fun j => pixel (i + j) := by
        have hlength := flatMap_length_three (fun j => hp (i + j)) (List.range k)
        rw [List.length_range] at hlength
        rw [primeBatch_batch, List.take_append_of_le_length hlength.ge, List.take_of_length_le hlength.le]
      refine (sameRun_streamBatch (s := primeBatch _ s) (t := primeBatch _ t) { h with }
        ((hprimed _ s).trans (hprimed _ t).symm)).bind fun u v _ _ hsame => ?_
      exact ih (s := setIndex _ (setRemaining _ u)) (t := setIndex _ (setRemaining _ v)) { hsame with } _

theorem sameRun_streamPixels (h : SameButUnspecified s t) (n : Nat) (f : ArrayFormat) (base len : Word) :
    SameRun (streamPixels n f base len s) (streamPixels n f base len t) := by
  rw [streamPixels, streamPixels, ← h.mem]
  exact sameRun_pixelLoop (s := setIndex 0 (setRemaining n s)) (t := setIndex 0 (setRemaining n t)) { h with }
    (fun _ => pixel_length ..) n n 0

theorem sameRun_drawWindow (h : SameButUnspecified s t) (w : Rect) {stream : State → Except Fault State}
    (hstream : ∀ u v, SameButUnspecified u v → SameRun (stream u) (stream v)) :
    SameRun (drawWindow w stream s) (drawWindow w stream t) :=
  (sameRun_emitWindow (s := enterSeq .seqWindow s) (t := enterSeq .seqWindow t) { h with } w).bind
    fun u v _ _ hwindow => (hstream u v hwindow).bind fun _ _ _ _ hsame => { hsame with }

theorem SameButUnspecified.windowCheck (h : SameButUnspecified s t) (x0 y0 x1 y1 : Half) :
    windowCheck s x0 y0 x1 y1 = windowCheck t x0 y0 x1 y1 := by
  simp only [Machine.windowCheck, h.width, h.height, h.partialOn, h.partY0, h.partY1]

theorem sameRun_fillRect (h : SameButUnspecified s t) (x0 y0 x1 y1 : Half) {p : List Byte} (hp : p.length = 3) :
    SameRun (fillRect x0 y0 x1 y1 p s) (fillRect x0 y0 x1 y1 p t) := by
  rw [fillRect, fillRect, h.windowCheck]
  split
  · exact h
  · exact sameRun_drawWindow h _ fun _ _ hsame => sameRun_streamFill hsame _ hp

theorem sameRun_writeRect (h : SameButUnspecified s t) (f : ArrayFormat) (x0 y0 x1 y1 : Half) (ptr len : Word) :
    SameRun (writeRect f x0 y0 x1 y1 ptr len s) (writeRect f x0 y0 x1 y1 ptr len t) := by
  rw [writeRect, writeRect, h.windowCheck, h.cfg]
  split
  · exact h
  · split
    · exact h
    · split
      · rfl
      · exact sameRun_drawWindow h _ fun _ _ hsame => sameRun_streamPixels hsame _ f ptr len

theorem SameButUnspecified.busy (h : SameButUnspecified s t) : s.busy = t.busy := by
  simp only [State.busy, h.xfer]

theorem SameButUnspecified.dmaStarts (h : SameButUnspecified s t) (ptr len : Word) :
    dmaStarts ptr len s = dmaStarts ptr len t := by
  simp only [Machine.dmaStarts, h.busy, h.cfg, h.dmaClaimed]

/-! Instructions. -/

theorem sameOutcome_whenReady (h : SameButUnspecified s t) {o o' : Host.Outcome State Fault Refusal}
    (ho : SameOutcome o o') : SameOutcome (whenReady s o) (whenReady t o') := by
  rw [whenReady, whenReady, h.phase]
  split
  · exact ho
  · rfl

/-- A guarded operation. -/
theorem sameOutcome_guarded (h : SameButUnspecified s t) {r r' : Except Fault State} (hr : SameRun r r') (v : Word) :
    SameOutcome (whenReady s (conclude v r)) (whenReady t (conclude v r')) :=
  sameOutcome_whenReady h (sameOutcome_conclude hr v)

theorem sameOutcome_runWire (h : SameButUnspecified s t) (c : Byte) (params : List Byte) :
    SameOutcome (runWire c params s) (runWire c params t) := by
  rw [runWire, runWire]
  obtain ⟨u, v, hu, hv, hsame⟩ | ⟨k, hs, ht⟩ := (sameRun_sendCmd h c params).ok_or_error
  · rw [hu, hv]
    exact hsame
  · rw [hs, ht]
    exact rfl

/-- The start of a transfer, as `writeDataDMA` and `writeDMA` make it (41_dma.md R120). -/
theorem sameOutcome_startDma (h : SameButUnspecified s t) (ptr len : Word) :
    SameOutcome (.next (respond (boolResult (startDma ptr len s).2) (startDma ptr len s).1))
      (.next (respond (boolResult (startDma ptr len t).2) (startDma ptr len t).1)) := by
  rw [startDma, startDma, h.dmaStarts]
  split
  · simp only [armTransfer_eq_started]
    exact (h.started _ ptr len).respond _
  · exact h.respond _

theorem sameOutcome_initializeBlock (h : SameButUnspecified s t) (ptr : Word) :
    SameOutcome (execInitializeBlock ptr s) (execInitializeBlock ptr t) := by
  rw [execInitializeBlock, execInitializeBlock, h.phase, h.cfg, bringUp_eq_ok, bringUp_eq_ok]
  split
  · exact h.respond _
  · split
    · exact h.respond _
    · exact h.broughtUp.respond _

/-- No instruction reads an unspecified value. -/
theorem sameOutcome_exec (h : SameButUnspecified s t) (i : Instr) : SameOutcome (exec i s) (exec i t) := by
  cases i with
  | writeCommand byte => exact sameOutcome_guarded h (sameRun_frame h _ _) _
  | writeData byte => exact sameOutcome_guarded h (sameRun_frame h _ _) _
  | writeDataBuffer ptr len =>
    refine sameOutcome_guarded h ?_ _
    simp only [bufferFrame_eq_frame, h.cfg, h.mem]
    split
    · exact sameRun_frame h _ _
    · exact h
  | writeDataDMA ptr len => exact sameOutcome_whenReady h (sameOutcome_startDma h ptr len)
  | isTransferBusy =>
    refine sameOutcome_whenReady h ?_
    rw [h.busy]
    exact h.respond _
  | waitTransferIdle =>
    refine sameOutcome_whenReady h ?_
    rw [h.busy]
    split
    · exact { h with mainLine := rfl }
    · exact h.respond _
  | reset => exact sameOutcome_guarded h (sameRun_resetPulse h) _
  | setBacklight flag => exact sameOutcome_guarded h (r := .ok _) (r' := .ok _) (h.drive_bl _) _
  | setBacklightBrightness level => exact sameOutcome_guarded h (r := .ok _) (r' := .ok _) (h.drive_bl _) _
  | initializeBlock ptr => exact sameOutcome_initializeBlock h ptr
  | setWindow x0 y0 x1 y1 =>
    refine sameOutcome_guarded h ?_ _
    rw [h.windowCheck]
    split
    · exact h
    · exact sameRun_emitWindow h _
  | setRotation rot =>
    refine sameOutcome_guarded h ?_ _
    rw [h.cfg]
    exact sameRun_sendCmd (h.rotate rot) _ _
  | setPartialMode flag =>
    exact sameOutcome_guarded h (sameRun_sendCmd (s := { s with partialOn := flag }) (t := { t with partialOn := flag })
      { h with partialOn := rfl } _ _) _
  | setPartialArea y0 y1 =>
    refine sameOutcome_guarded h ?_ _
    rw [h.bandOf]
    have hstored := h.storeBand y0 y1
    unfold storeBand at hstored
    rw [h.bandOf] at hstored
    exact sameRun_sendCmd hstored _ _
  | writeDMA ptr len => exact sameOutcome_whenReady h (sameOutcome_startDma (h.drive_dc .data) ptr len)
  | teardown =>
    refine sameOutcome_guarded h ?_ _
    rw [h.xfer]
    split
    · exact h.releaseBlock
    · rfl
  | drawPixel x y c565 => exact sameOutcome_guarded h (sameRun_fillRect h _ _ _ _ (pix565_length c565)) _
  | drawPixelRGB24 x y c888 => exact sameOutcome_guarded h (sameRun_fillRect h _ _ _ _ (pix888_length c888)) _
  | fillArea x0 y0 x1 y1 c565 => exact sameOutcome_guarded h (sameRun_fillRect h _ _ _ _ (pix565_length c565)) _
  | fillAreaRGB24 x0 y0 x1 y1 c888 => exact sameOutcome_guarded h (sameRun_fillRect h _ _ _ _ (pix888_length c888)) _
  | fillScreen c565 =>
    refine sameOutcome_guarded h ?_ _
    rw [h.width, h.height]
    exact sameRun_fillRect h _ _ _ _ (pix565_length c565)
  | fillScreenRGB24 c888 =>
    refine sameOutcome_guarded h ?_ _
    rw [h.width, h.height]
    exact sameRun_fillRect h _ _ _ _ (pix888_length c888)
  | writePixels x0 y0 x1 y1 ptr len => exact sameOutcome_guarded h (sameRun_writeRect h _ _ _ _ _ _ _) _
  | writePixelsRGB24 x0 y0 x1 y1 ptr len => exact sameOutcome_guarded h (sameRun_writeRect h _ _ _ _ _ _ _) _
  | rgb565ToRgb666 c565 => exact h.respond _
  | rgb888ToRgb666 c888 => exact h.respond _
  | wireReset | wireSleepOut | wirePartialModeOn | wireNormalModeOn | wireDisplayInvertOn | wireDisplayOn
  | wireColumnAddressSet _ _ | wireRowAddressSet _ _ | wireMemoryWrite | wirePartialArea _ _
  | wireMemoryAccessControl _ | wirePixelFormat _ => exact sameOutcome_runWire h _ _

/-! The agents beside the main line, the host's write, and what happens next. -/

/-- With no transfer in flight and no interrupt pending no agent has a step, and the turn passes (41_dma.md R123, R124,
60_exceptions.md R218). -/
theorem transferStep_eq_self {u : State} (hclear : u.irqPending = false) (hflight : u.xfer ≠ .inFlight) :
    transferStep u = .next u := by
  rcases transferStep_cases u with ⟨hirq, _⟩ | ⟨_, hx, _⟩ | ⟨_, hx, _⟩ | ⟨_, _, hpass⟩
  · simp [hclear] at hirq
  · exact absurd hx hflight
  · exact absurd hx hflight
  · exact hpass

/-- The DMA registers are read during a transfer only (10_state.md R27). -/
theorem sameOutcome_transferStep (h : SameButUnspecified s t) : SameOutcome (transferStep s) (transferStep t) := by
  by_cases hirq : s.irqPending = true
  · rw [transferStep_eq_takeCompletionInterrupt hirq, transferStep_eq_takeCompletionInterrupt (h.irqPending ▸ hirq)]
    exact { h with
      xfer := rfl
      dma := fun hbusy => absurd rfl hbusy
      irqPending := rfl
      trace := congrArg (· ++ [Event.cs .released]) h.trace }
  simp only [Bool.not_eq_true] at hirq
  have hirq' : t.irqPending = false := h.irqPending ▸ hirq
  by_cases hflight : s.xfer = .inFlight
  · obtain ⟨hptr, hlen, hpos⟩ := h.dma (by rw [hflight]; nofun)
    simp only [transferStep, State.irqHandlerEnabled, State.dmaBeatEnabled, State.dmaDoneEnabled, hirq, hirq',
      ← h.xfer, ← hlen, ← hpos]
    split
    · contradiction
    · split
      · rw [dmaBeat, dmaBeat, ← h.cfg, ← hptr, ← hpos, ← h.mem]
        dsimp only
        split
        · exact { h with
            dma := fun _ => ⟨hptr, hlen, rfl⟩
            trace := congrArg (· ++ [_]) h.trace }
        · rfl
      · split
        · exact { h with irqPending := rfl }
        · exact h
  · rw [transferStep_eq_self hirq hflight, transferStep_eq_self hirq' (h.xfer ▸ hflight)]
    exact h

theorem SameButUnspecified.inFlightBuffer (h : SameButUnspecified s t) (a : Nat) :
    inFlightBuffer a s = inFlightBuffer a t := by
  by_cases hidle : s.xfer = .idle
  · simp [Machine.inFlightBuffer, State.busy, ← h.xfer, hidle]
  · obtain ⟨hptr, hlen, _⟩ := h.dma hidle
    simp only [Machine.inFlightBuffer, h.busy, hptr, hlen]

theorem sameOutcome_hostWrite (h : SameButUnspecified s t) (addr : Word) (b : Byte) :
    SameOutcome (hostWrite addr b s) (hostWrite addr b t) := by
  have hspace : addressSpace s.cfg = addressSpace t.cfg := congrArg addressSpace h.cfg
  rw [hostWrite, hostWrite, h.inFlightBuffer, hspace, h.mem]
  split
  · rfl
  · split
    · rfl
    · exact { h with mem := rfl }

theorem SameButUnspecified.withInputs (h : SameButUnspecified s t) (rest : List Input) :
    SameButUnspecified { s with inputs := rest } { t with inputs := rest } :=
  { h with inputs := rfl }

theorem SameButUnspecified.acceptRequest (h : SameButUnspecified s t) (d : Descriptor) (rest : List Input) :
    SameButUnspecified (acceptRequest d rest s) (acceptRequest d rest t) :=
  { h with inputs := rfl }

theorem SameButUnspecified.freed (h : SameButUnspecified s t) :
    SameButUnspecified { s with mainLine := .free } { t with mainLine := .free } :=
  { h with mainLine := rfl }

/-- A step that is left to the next stimulus (log 6). -/
theorem sameOutcome_stimulus (h : SameButUnspecified s t)
    (hline : s.mainLine = .free ∨ (s.mainLine = .waiting ∧ s.xfer ≠ .idle)) : SameOutcome (step s) (step t) := by
  rw [step, step, fetch_stimulus hline, fetch_stimulus (h.mainLine ▸ h.xfer ▸ hline), fetchStimulus, fetchStimulus,
    ← h.inputs]
  rcases s.inputs with _ | ⟨stimulus, rest⟩
  · exact sameOutcome_transferStep h
  cases stimulus with
  | transferTurn => exact sameOutcome_transferStep (h.withInputs rest)
  | hostWrite addr b => exact sameOutcome_hostWrite (h.withInputs rest) addr b
  | request d =>
    by_cases hwaiting : s.mainLine = .waiting
    · simp only [if_pos hwaiting, if_pos (h.mainLine ▸ hwaiting)]
      exact sameOutcome_transferStep h
    · have htaken : d.taken t.cfg.ptrBits t.cfg.lenBits = d.taken s.cfg.ptrBits s.cfg.lenBits := by rw [h.cfg]
      simp only [if_neg hwaiting, if_neg (h.mainLine ▸ hwaiting), fetchRequest, htaken]
      cases decodeDescriptor (d.taken s.cfg.ptrBits s.cfg.lenBits) with
      | ok i => exact sameOutcome_exec (h.acceptRequest _ rest) i
      | error e => exact (h.withInputs rest).respond _

end

/-- Settles O54: by what the main line is at, which is the same in both states. -/
theorem unspecifiedValuesAreNeverRead : Obligations.UnspecifiedValuesAreNeverRead := by
  intro s t h
  cases hline : s.mainLine with
  | free => exact sameOutcome_stimulus h (.inl hline)
  | waiting =>
    by_cases hidle : s.xfer = .idle
    · rw [step, step, fetch, fetch, ← h.mainLine, hline]
      simp only [← h.xfer, if_pos hidle]
      exact h.freed.respond noResult
    · exact sameOutcome_stimulus h (.inr ⟨hline, hidle⟩)
  | emitting i =>
    rw [step, step, fetch, fetch, ← h.mainLine, hline]
    exact sameOutcome_exec h.freed i

end Sys2Proof.Machine
end

section
/-! What happens next (30_encoding.md R70, 41_dma.md R122, 60_exceptions.md R221): requests, the hold, turns and the
host's writes, one equation per kind of stimulus. -/

namespace Sys2Proof.Machine

/-- A request at the free main line that decodes runs, with its fields in the latch (30_encoding.md R70). -/
theorem step_of_request {s : State} {d : Descriptor} {rest : List Input} {i : Instr} (hfree : s.mainLine = .free)
    (hin : s.inputs = .request d :: rest)
    (hdecoded : decodeDescriptor (d.taken s.cfg.ptrBits s.cfg.lenBits) = .ok i) :
    step s = exec i (acceptRequest (d.taken s.cfg.ptrBits s.cfg.lenBits) rest s) := by
  simp [step, fetch_stimulus (.inl hfree), fetchStimulus, hin, hfree, fetchRequest, hdecoded]

/-- Settles O5: the state the request runs in is the accepted one, whose latch is written out in the statement; at the
full widths the descriptor is taken as it stands. -/
theorem stepRunsTheDecodedRequest : Obligations.StepRunsTheDecodedRequest := by
  intro s d rest i hfree hin
  refine ⟨step_of_request hfree hin, fun hptr hlen hdecoded => ?_⟩
  have htaken : d.taken s.cfg.ptrBits s.cfg.lenBits = d := by rw [hptr, hlen, Descriptor.taken_full]
  rw [step_of_request hfree hin (by rwa [htaken]), htaken]
  rfl

theorem step_of_emitting {s : State} {i : Instr} (hemit : s.mainLine = .emitting i) :
    step s = exec i { s with mainLine := .free } := by
  simp [step, fetch, hemit]

theorem placeNext_wire {bytes : List Byte} {i : Instr} (hdecoded : decodeWire bytes = .ok i) (s : State) :
    placeNext (.wire bytes) s = { s with mainLine := .emitting i } := by
  simp [placeNext, hdecoded]

/-- Settles O6: what a main line at a wire command does, and how the words of one put it there. -/
theorem stepRunsTheDecodedWireCommand : Obligations.StepRunsTheDecodedWireCommand := fun s i =>
  ⟨step_of_emitting, fun bytes hdecoded => by rw [placeNext_wire hdecoded, step_of_emitting rfl]⟩

/-- With no stimulus left the step is the agents' (log 6). -/
theorem step_of_no_stimulus {s : State} (hline : s.mainLine = .free ∨ (s.mainLine = .waiting ∧ s.xfer ≠ .idle))
    (hin : s.inputs = []) : step s = transferStep s := by
  simp [step, fetch_stimulus hline, fetchStimulus, hin]

/-- Settles O20: no stimulus and a turn both give the step to the agents, and with no transfer none of them moves. -/
theorem withoutStimulusTheTransferGoesOn : Obligations.WithoutStimulusTheTransferGoesOn := by
  intro s
  refine ⟨fun hin hline => ?_, fun rest hin hfree hidle hclear => ?_, fun hquiet hsound => ?_⟩
  · have hturn : step { s with inputs := [.transferTurn] } = transferStep { s with inputs := [] } :=
      step_of_transferTurn (s := { s with inputs := [.transferTurn] }) hline rfl
    rw [step_of_no_stimulus hline hin, hturn, ← hin]
  · exact (step_of_transferTurn (.inl hfree) hin).trans
      (transferStep_eq_self (u := { s with inputs := rest }) hclear (by rw [hidle]; nofun))
  · obtain ⟨hin, hfree, hidle⟩ := hquiet
    rw [step_of_no_stimulus (.inl hfree) hin]
    exact transferStep_eq_self (hsound.clear_of_idle hidle) (by rw [hidle]; nofun)

/-! The hold of `waitTransferIdle` (41_dma.md R122). -/

theorem execWaitTransferIdle_idle {s : State} (hready : s.phase = .ready) (hidle : s.xfer = .idle) :
    execWaitTransferIdle s = .next (respond noResult s) := by
  simp [execWaitTransferIdle, whenReady_ready hready, State.busy, hidle]

theorem execWaitTransferIdle_busy {s : State} (hready : s.phase = .ready) (hbusy : s.xfer ≠ .idle) :
    execWaitTransferIdle s = .next { s with mainLine := .waiting } := by
  simp [execWaitTransferIdle, whenReady_ready hready, State.busy, hbusy]

/-- A request behind a hold waits: the step is the agents'. -/
theorem step_of_held_request {s : State} {d : Descriptor} {rest : List Input} (hwaiting : s.mainLine = .waiting)
    (hbusy : s.xfer ≠ .idle) (hin : s.inputs = .request d :: rest) : step s = transferStep s := by
  simp [step, fetch_stimulus (.inr ⟨hwaiting, hbusy⟩), fetchStimulus, hin, hwaiting]

/-- A hold ends at the first step that finds the transfer idle (log 6). -/
theorem step_of_hold_over {s : State} (hwaiting : s.mainLine = .waiting) (hidle : s.xfer = .idle) :
    step s = .next (releaseHold s) := by
  simp [step, fetch, hwaiting, hidle]

/-- While a hold lasts, no step frees the main line or delivers a response. -/
theorem Stepped.held {s t : State} (h : Stepped s t) (hwaiting : s.mainLine = .waiting) (hbusy : s.xfer ≠ .idle) :
    t.mainLine = .waiting ∧ t.responses = s.responses := by
  cases h with
  | endsHold _ hidle => exact absurd hidle hbusy
  | runs _ _ hline _ => obtain hline | hline := hline <;> (rw [hwaiting] at hline; cases hline)
  | answersIllegalCode _ hfree => rw [hwaiting] at hfree; cases hfree
  | handlesInterrupt | clocksByte | raisesInterrupt | passes | hostWrites => exact ⟨hwaiting, rfl⟩

/-- Settles O16: the operation by the busy flag, then the steps of a hold. -/
theorem waitTransferIdleReturnsOrHolds : Obligations.WaitTransferIdleReturnsOrHolds := by
  intro s
  refine ⟨execWaitTransferIdle_idle, execWaitTransferIdle_busy, fun hready => whenReady_notReady hready _,
    fun d rest hwaiting hbusy hin => ?_, fun t hwaiting hbusy hstep => (step_stepped hstep).held hwaiting hbusy,
    step_of_hold_over⟩
  exact (step_of_held_request hwaiting hbusy hin).trans (step_of_transferTurn
    (s := { s with inputs := .transferTurn :: s.inputs }) (.inr ⟨hwaiting, hbusy⟩) rfl).symm

/-! The host's writes (20_memory.md R59). -/

theorem step_of_hostWrite {s : State} {addr : Word} {b : Byte} {rest : List Input}
    (hline : s.mainLine = .free ∨ (s.mainLine = .waiting ∧ s.xfer ≠ .idle))
    (hin : s.inputs = .hostWrite addr b :: rest) : step s = hostWrite addr b { s with inputs := rest } := by
  simp [step, fetch_stimulus hline, fetchStimulus, hin]

theorem inFlightBuffer_iff {a : Nat} {s : State} :
    inFlightBuffer a s = true ↔ s.xfer ≠ .idle ∧ s.dmaPtr.toNat ≤ a ∧ a < s.dmaPtr.toNat + s.dmaLen.toNat := by
  simp [inFlightBuffer, State.busy, and_assoc]

/-- Settles O26: the three ways the host's write can go, by its address and by the race. -/
theorem bufferChangeInFlightIsARace : Obligations.BufferChangeInFlightIsARace := by
  intro s a b rest hin hline
  have hrace : (inFlightBuffer a.toNat { s with inputs := rest } = true ∧ readByte s.mem a.toNat ≠ b) ↔
      s.xfer ≠ .idle ∧ s.dmaPtr.toNat ≤ a.toNat ∧ a.toNat < s.dmaPtr.toNat + s.dmaLen.toNat ∧
        readByte s.mem a.toNat ≠ b := by
    rw [inFlightBuffer_iff, and_assoc, and_assoc]
  rw [step_of_hostWrite hline hin, hostWrite, addressSpace]
  refine ⟨fun houtside => if_pos (by simpa using houtside), fun hinside race => ?_, fun hinside race => ?_⟩
  · exact (if_neg (by simpa using hinside)).trans (if_pos (hrace.mpr race))
  · refine ⟨writeByte s.mem a.toNat b, (if_neg (by simpa using hinside)).trans (if_neg fun h => race (hrace.mp h)),
      fun hwf => ⟨writeByte_wf hwf a.isLt, fun x => readByte_writeByte hwf a.toNat x b⟩⟩

end Sys2Proof.Machine
end

section
/-! A transfer on its own (41_dma.md R123 to R127): from a quiet state the agents clock out the rest of the buffer, one
byte a step, then raise the interrupt and take it. -/

namespace Sys2Proof.Machine

/-- A transfer in flight that nothing else disturbs: no stimulus left, the main line free or held, no interrupt yet. -/
structure QuietTransfer (s : State) : Prop where
  sound : transferSound s
  flight : s.xfer = .inFlight
  clear : s.irqPending = false
  noStimulus : s.inputs = []
  line : s.mainLine = .free ∨ s.mainLine = .waiting

/-- The events of the next `k` bytes of the buffer in flight, in address order (41_dma.md R123). -/
def beatEvents (k : Nat) (s : State) : List Event :=
  (List.range k).map fun j => .tx (readByte s.mem (s.dmaPtr.toNat + s.dmaPos.toNat + j))

/-- The state after `k` beats. -/
def beaten (k : Nat) (s : State) : State :=
  { s with trace := s.trace ++ beatEvents k s, dmaPos := s.dmaPos + BitVec.ofNat 32 k }

/-- The state once the interrupt is taken: the buffer clocked out, chip-select released, the transfer idle. -/
def transferred (s : State) : State :=
  { s with
    trace := s.trace ++ beatEvents (s.dmaLen.toNat - s.dmaPos.toNat) s ++ [.cs .released]
    dmaPos := s.dmaLen, xfer := .idle, cs := .released, irqPending := false }

theorem beaten_zero (s : State) : beaten 0 s = s := by
  simp [beaten, beatEvents]

theorem beatEvents_succ (k : Nat) (s : State) :
    beatEvents (k + 1) s =
      beatEvents k s ++ [.tx (readByte s.mem (s.dmaPtr.toNat + s.dmaPos.toNat + k))] := by
  simp [beatEvents, List.range_succ]

/-- One more step, at the end of a run. -/
theorem runSteps_succ {k : Nat} {s t : State} (h : runSteps k s = .next t) : runSteps (k + 1) s = step t := by
  induction k generalizing s with
  | zero =>
    obtain rfl : s = t := by cases h; rfl
    cases hstep : step s <;> simp [runSteps, hstep]
  | succ k ih =>
    rw [runSteps] at h ⊢
    cases hstep : step s with
    | next s' => rw [hstep] at h; exact ih h
    | fault => rw [hstep] at h; cases h
    | refused => rw [hstep] at h; cases h

section
variable {s : State}

theorem QuietTransfer.step_eq (h : QuietTransfer s) : step s = transferStep s := by
  refine step_of_no_stimulus ?_ h.noStimulus
  obtain hfree | hwaiting := h.line
  · exact .inl hfree
  · exact .inr ⟨hwaiting, by rw [h.flight]; nofun⟩

theorem QuietTransfer.dmaPos_le (h : QuietTransfer s) : s.dmaPos.toNat ≤ s.dmaLen.toNat := by
  obtain ⟨_, _, _, _, _, hle, _⟩ := h.sound (by rw [h.flight]; nofun)
  exact hle

/-- The position after some of the bytes left: the sum does not wrap (10_state.md R27). -/
theorem QuietTransfer.toNat_beaten_dmaPos (h : QuietTransfer s) {k : Nat}
    (hk : k ≤ s.dmaLen.toNat - s.dmaPos.toNat) : (beaten k s).dmaPos.toNat = s.dmaPos.toNat + k := by
  have hle := h.dmaPos_le
  have hlen := s.dmaLen.isLt
  simp only [beaten, BitVec.toNat_add, BitVec.toNat_ofNat]
  omega

theorem QuietTransfer.quiet_beaten (h : QuietTransfer s) {k : Nat} (hk : k ≤ s.dmaLen.toNat - s.dmaPos.toNat) :
    QuietTransfer (beaten k s) :=
  { h with
    sound := fun hbusy => by
      obtain ⟨hx, hcs, hdc, hready, hclaimed, _, hvalid⟩ := h.sound hbusy
      have hpos := h.toNat_beaten_dmaPos hk
      have hle := h.dmaPos_le
      have hinside : (beaten k s).dmaPos.toNat ≤ s.dmaLen.toNat := by omega
      exact ⟨hx, hcs, hdc, hready, hclaimed, hinside, hvalid⟩ }

/-- While bytes are left a step is one beat (41_dma.md R123). -/
theorem QuietTransfer.step_beaten (h : QuietTransfer s) {k : Nat} (hk : k < s.dmaLen.toNat - s.dmaPos.toNat) :
    step (beaten k s) = .next (beaten (k + 1) s) := by
  have hquiet := h.quiet_beaten hk.le
  have hpos := h.toNat_beaten_dmaPos hk.le
  have hleft : (beaten k s).dmaPos < (beaten k s).dmaLen := by
    have hless : (beaten k s).dmaPos.toNat < s.dmaLen.toNat := by omega
    exact hless
  rw [hquiet.step_eq, transferStep_eq_dmaBeat hquiet.clear hquiet.flight hleft,
    dmaBeat_inside (hquiet.sound.next_byte_inside hquiet.flight hleft), hpos]
  simp only [beaten, beatEvents_succ, List.append_assoc, Nat.add_assoc, BitVec.add_assoc, BitVec.ofNat_add]
  rfl

theorem QuietTransfer.runSteps_beaten (h : QuietTransfer s) {k : Nat}
    (hk : k ≤ s.dmaLen.toNat - s.dmaPos.toNat) : runSteps k s = .next (beaten k s) := by
  induction k with
  | zero => rw [beaten_zero]; rfl
  | succ k ih => rw [runSteps_succ (ih (by omega)), h.step_beaten (by omega)]

/-- At the end of the buffer the interrupt is raised (41_dma.md R124). -/
theorem QuietTransfer.runSteps_raised (h : QuietTransfer s) :
    runSteps (s.dmaLen.toNat - s.dmaPos.toNat + 1) s =
      .next (dmaDone (beaten (s.dmaLen.toNat - s.dmaPos.toNat) s)) := by
  have hquiet := h.quiet_beaten le_rfl
  have hpos := h.toNat_beaten_dmaPos le_rfl
  have hle := h.dmaPos_le
  have hend : (beaten (s.dmaLen.toNat - s.dmaPos.toNat) s).dmaPos = s.dmaLen :=
    BitVec.eq_of_toNat_eq (by omega)
  rw [runSteps_succ (h.runSteps_beaten le_rfl), hquiet.step_eq,
    transferStep_eq_dmaDone hquiet.clear hquiet.flight hend]

/-- Then it is taken, and the transfer is over (60_exceptions.md R218). -/
theorem QuietTransfer.runSteps_transferred (h : QuietTransfer s) :
    runSteps (s.dmaLen.toNat - s.dmaPos.toNat + 2) s = .next (transferred s) := by
  have hquiet := h.quiet_beaten le_rfl
  have hpos := h.toNat_beaten_dmaPos le_rfl
  have hle := h.dmaPos_le
  have hend : s.dmaPos + BitVec.ofNat 32 (s.dmaLen.toNat - s.dmaPos.toNat) = s.dmaLen :=
    BitVec.eq_of_toNat_eq (hpos.trans (by omega))
  have hline : (dmaDone (beaten (s.dmaLen.toNat - s.dmaPos.toNat) s)).mainLine = .free ∨
      ((dmaDone (beaten (s.dmaLen.toNat - s.dmaPos.toNat) s)).mainLine = .waiting ∧
        (dmaDone (beaten (s.dmaLen.toNat - s.dmaPos.toNat) s)).xfer ≠ .idle) :=
    h.line.imp_right fun hwaiting => ⟨hwaiting, by rw [dmaDone_xfer, hquiet.flight]; nofun⟩
  rw [runSteps_succ h.runSteps_raised, step_of_no_stimulus hline h.noStimulus,
    transferStep_eq_takeCompletionInterrupt rfl, takeCompletionInterrupt_eq]
  simp only [dmaDone, beaten, transferred, hend]

/-- A sound transfer in flight, with no stimulus and no interrupt, is a quiet one. -/
theorem Invariant.quietTransfer (h : Invariant s) (hflight : s.xfer = .inFlight) (hclear : s.irqPending = false)
    (hin : s.inputs = []) (hline : s.mainLine = .free ∨ s.mainLine = .waiting) : QuietTransfer s :=
  ⟨h.transfer, hflight, hclear, hin, hline⟩

end

/-- Settles O21: the beats left, the interrupt raised, the interrupt taken. -/
theorem transferRunsToCompletion : Obligations.TransferRunsToCompletion := fun _ h hflight hclear hin hfree =>
  (h.quietTransfer hflight hclear hin (.inl hfree)).runSteps_transferred

/-- Settles O22: none of the states on the way has delivered a response; the step after the last is the hold's end. -/
theorem waitReturnsAfterTheWholeTransfer : Obligations.WaitReturnsAfterTheWholeTransfer := by
  intro s h hflight hclear hin hwaiting
  have hquiet := h.quietTransfer hflight hclear hin (.inr hwaiting)
  constructor
  · intro k t hk hrun
    rcases Nat.lt_or_ge (s.dmaLen.toNat - s.dmaPos.toNat) k with hpast | hbeat
    · obtain rfl | rfl : k = s.dmaLen.toNat - s.dmaPos.toNat + 1 ∨ k = s.dmaLen.toNat - s.dmaPos.toNat + 2 := by
        omega
      · cases hquiet.runSteps_raised.symm.trans hrun; rfl
      · cases hquiet.runSteps_transferred.symm.trans hrun; rfl
    · cases (hquiet.runSteps_beaten hbeat).symm.trans hrun; rfl
  · rw [runSteps_succ hquiet.runSteps_transferred]
    exact step_of_hold_over hwaiting rfl

/-! Starting one (41_dma.md R120, 42_addressing.md R150). -/

theorem execWriteDataDMA_starts {ptr len : Word} {s : State} (hready : s.phase = .ready)
    (hstarts : dmaStarts ptr len s = true) :
    execWriteDataDMA ptr len s = .next (respond 1 (started [.cs .asserted, .dc .data] ptr len s)) := by
  rw [execWriteDataDMA, whenReady_ready hready, startDma, if_pos hstarts, armTransfer_eq_started]
  rfl

theorem execWriteDataDMA_refuses {ptr len : Word} {s : State} (hready : s.phase = .ready)
    (hstarts : ¬dmaStarts ptr len s = true) : execWriteDataDMA ptr len s = .next (respond 0 s) := by
  rw [execWriteDataDMA, whenReady_ready hready, startDma, if_neg hstarts]
  rfl

theorem execWriteDMA_starts {ptr len : Word} {s : State} (hready : s.phase = .ready)
    (hstarts : dmaStarts ptr len s = true) :
    execWriteDMA ptr len s = .next (respond 1 (started [.dc .data, .cs .asserted, .dc .data] ptr len s)) := by
  rw [execWriteDMA, whenReady_ready hready, startDma, dmaStarts_drive_dc, if_pos hstarts, armTransfer_drive_data]
  rfl

theorem execWriteDMA_refuses {ptr len : Word} {s : State} (hready : s.phase = .ready)
    (hstarts : ¬dmaStarts ptr len s = true) :
    execWriteDMA ptr len s = .next (respond 0 (drive (.dc .data) s)) := by
  rw [execWriteDMA, whenReady_ready hready, startDma, dmaStarts_drive_dc, if_neg hstarts]
  rfl

/-- The four tests as the statements write them (41_dma.md R120, 20_memory.md R55). -/
theorem dmaStarts_iff_tests {ptr len : Word} {s : State} :
    dmaStarts ptr len s = true ↔
      s.xfer = .idle ∧ (ptr ≠ 0 ∧ len ≠ 0 ∧ ptr.toNat + len.toNat ≤ 2 ^ s.cfg.ptrBits) ∧
        s.cfg.dmaCapable = true ∧ (s.dmaClaimed = true ∨ s.cfg.dmaClaimOk = true) := by
  rw [dmaStarts_iff, validRange_iff, addressSpace]

/-- Settles O14: the guard, then the four tests. -/
theorem writeDataDmaStartsOrAnswersFalse : Obligations.WriteDataDmaStartsOrAnswersFalse := fun _ _ _ =>
  ⟨fun hready hstarts => execWriteDataDMA_starts hready (dmaStarts_iff_tests.mpr hstarts),
    fun hready hstarts => execWriteDataDMA_refuses hready fun h => hstarts (dmaStarts_iff_tests.mp h),
    fun hready => whenReady_notReady hready _⟩

/-- Settles O34: as O14, the data level first. -/
theorem writeDmaDrivesDataFirst : Obligations.WriteDmaDrivesDataFirst := fun _ _ _ =>
  ⟨fun hready hstarts => execWriteDMA_starts hready (dmaStarts_iff_tests.mpr hstarts),
    fun hready hstarts => execWriteDMA_refuses hready fun h => hstarts (dmaStarts_iff_tests.mp h),
    fun hready => whenReady_notReady hready _⟩

/-! `writeDataBuffer` (40_transport.md R104). -/

section
variable {ptr len : Word} {s : State}

theorem execWriteDataBuffer_of_valid (hvalid : validRange s.cfg ptr len = true) :
    execWriteDataBuffer ptr len s =
      whenReady s (conclude noResult (frame .data (readRange s.mem ptr.toNat len.toNat) s)) := by
  rw [execWriteDataBuffer, if_pos hvalid, bufferFrame_eq_frame]

theorem execWriteDataBuffer_of_invalid (hinvalid : ¬validRange s.cfg ptr len = true) :
    execWriteDataBuffer ptr len s = whenReady s (conclude noResult (.ok s)) := by
  rw [execWriteDataBuffer, if_neg hinvalid]

theorem frameEvents_readRange (t : Tag) (m : Memory) (a n : Nat) :
    frameEvents t (readRange m a n) =
      [.cs .asserted, .dc t] ++ (List.range n).map (fun k => .tx (readByte m (a + k))) ++ [.cs .released] := by
  simp [frameEvents, readRange]

/-- The state after `writeDataBuffer` of a valid range on an idle bus (40_transport.md R104). -/
theorem execWriteDataBuffer_idle (hready : s.phase = .ready) (hidle : s.xfer = .idle)
    (hvalid : validRange s.cfg ptr len = true) :
    execWriteDataBuffer ptr len s = .next (respond 0 (onWire ([.cs .asserted, .dc .data] ++
      (List.range len.toNat).map (fun k => .tx (readByte s.mem (ptr.toNat + k))) ++ [.cs .released]) .data s)) := by
  rw [execWriteDataBuffer_of_valid hvalid, ← frameEvents_readRange]
  exact whenReady_conclude_ok hready (frame_idle _ _ hidle) noResult

end

/-- Settles O10: the guard, the range's test, then one data frame. -/
theorem writeDataBufferFramesItsRange : Obligations.WriteDataBufferFramesItsRange := fun _ _ _ =>
  ⟨fun hready hidle hvalid => execWriteDataBuffer_idle hready hidle (validRange_iff.mpr hvalid),
    fun hready hinvalid => (execWriteDataBuffer_of_invalid fun h => hinvalid (validRange_iff.mp h)).trans
      (whenReady_conclude_ok hready rfl noResult),
    fun hready hbusy hvalid => (execWriteDataBuffer_of_valid (validRange_iff.mpr hvalid)).trans
      (whenReady_conclude_error hready (frame_busy _ _ hbusy) noResult),
    fun hready => whenReady_notReady hready _⟩

/-- A transfer just started on a quiet main line is a quiet one, at its first byte (41_dma.md R120). -/
theorem quietTransfer_started {s : State} {ptr len : Word} (hready : s.phase = .ready) (hin : s.inputs = [])
    (hfree : s.mainLine = .free) (hclear : s.irqPending = false) (hvalid : validRange s.cfg ptr len = true) :
    QuietTransfer (respond 1 (started [.cs .asserted, .dc .data] ptr len s)) where
  sound := fun _ => ⟨rfl, rfl, rfl, hready, rfl, Nat.zero_le _, hvalid⟩
  flight := rfl
  clear := hclear
  noStimulus := hin
  line := .inl hfree

/-- Settles O23: both leave one data frame of the range on the trace, the transfer in the steps of its run. -/
theorem dmaTransferEqualsBufferFrame : Obligations.DmaTransferEqualsBufferFrame := by
  intro ptr len s h hready hidle hin hfree hvalid hcapable hclaim
  have hstarts : dmaStarts ptr len s = true := dmaStarts_iff.mpr ⟨hidle, hvalid, hcapable, hclaim⟩
  have hquiet := quietTransfer_started hready hin hfree (h.interrupt.clear_of_idle hidle) hvalid
  refine ⟨_, _, _, execWriteDataDMA_starts hready hstarts, hquiet.runSteps_transferred,
    execWriteDataBuffer_idle hready hidle hvalid, ?_, rfl, rfl, rfl, rfl⟩
  simp [transferred, beatEvents, started, onWire]

end Sys2Proof.Machine
end

section
/-! Wire commands run as instructions (30_encoding.md R80 to R91), the order of corners (42_addressing.md R146), and the
colour conversions bit by bit (43_color.md R171 to R175). -/

namespace Sys2Proof.Machine

theorem runWire_idle (c : Byte) (params : List Byte) {s : State} (hidle : s.xfer = .idle) :
    runWire c params s = .next (onWire (commandEvents c params) (if params = [] then .command else .data) s) := by
  rw [runWire, sendCmd_idle c params hidle]

theorem runWire_busy (c : Byte) (params : List Byte) {s : State} (hbusy : s.xfer ≠ .idle) :
    runWire c params s = .fault .busConflict := by
  rw [runWire, sendCmd_busy c params hbusy]

/-- Settles O48: each of the twelve is `SendCmd` of its row. -/
theorem wireCommandsAreDrivenAsEncoded : Obligations.WireCommandsAreDrivenAsEncoded := by
  intro u v b s icp hicp
  have hexec : exec icp.1 s = runWire icp.2.1 icp.2.2 s := by
    simp only [List.mem_cons, List.not_mem_nil, or_false] at hicp
    rcases hicp with rfl | rfl | rfl | rfl | rfl | rfl | rfl | rfl | rfl | rfl | rfl | rfl <;> rfl
  exact ⟨fun hidle => hexec.trans (runWire_idle icp.2.1 icp.2.2 hidle),
    fun hbusy => hexec.trans (runWire_busy icp.2.1 icp.2.2 hbusy)⟩

/-! The order of the corners on each axis (42_addressing.md R144, R146). -/

theorem umin_comm {n : Nat} (a b : BitVec n) : umin a b = umin b a :=
  BitVec.eq_of_toNat_eq (by rw [toNat_umin, toNat_umin, Nat.min_comm])

theorem umax_comm {n : Nat} (a b : BitVec n) : umax a b = umax b a :=
  BitVec.eq_of_toNat_eq (by rw [toNat_umax, toNat_umax, Nat.max_comm])

section
variable (s : State) (x0 y0 x1 y1 : Half)

theorem windowCheck_swap_columns : windowCheck s x0 y0 x1 y1 = windowCheck s x1 y0 x0 y1 := by
  rw [windowCheck, windowCheck, Rect.ofCorners, Rect.ofCorners, umin_comm x0, umax_comm x0]

theorem windowCheck_swap_rows : windowCheck s x0 y0 x1 y1 = windowCheck s x0 y1 x1 y0 := by
  rw [windowCheck, windowCheck, Rect.ofCorners, Rect.ofCorners, umin_comm y0, umax_comm y0]

end

/-- The rectangle operations read their corners through the check alone: corners with the same check are the same
operation (42_addressing.md R146, 44_drawing.md R185, R189). -/
theorem exec_rectangle_congr {s : State} {x0 y0 x1 y1 u0 v0 u1 v1 : Half}
    (hcheck : windowCheck s x0 y0 x1 y1 = windowCheck s u0 v0 u1 v1) (c565 : Half) (c888 : Imm) (ptr len : Word) :
    ∀ op ∈ [fun a b c d => Instr.setWindow a b c d, fun a b c d => Instr.fillArea a b c d c565,
        fun a b c d => Instr.fillAreaRGB24 a b c d c888, fun a b c d => Instr.writePixels a b c d ptr len,
        fun a b c d => Instr.writePixelsRGB24 a b c d ptr len],
      exec (op x0 y0 x1 y1) s = exec (op u0 v0 u1 v1) s := by
  have hfill (p : List Byte) : fillRect x0 y0 x1 y1 p s = fillRect u0 v0 u1 v1 p s := by
    rw [fillRect, fillRect, hcheck]
  have hwrite (f : ArrayFormat) : writeRect f x0 y0 x1 y1 ptr len s = writeRect f u0 v0 u1 v1 ptr len s := by
    rw [writeRect, writeRect, hcheck]
  intro op hop
  simp only [List.mem_cons, List.not_mem_nil, or_false] at hop
  rcases hop with rfl | rfl | rfl | rfl | rfl
  · simp only [exec, execSetWindow, hcheck]
  · simp only [exec, execFillArea, hfill]
  · simp only [exec, execFillAreaRGB24, hfill]
  · simp only [exec, execWritePixels, hwrite]
  · simp only [exec, execWritePixelsRGB24, hwrite]

/-- Settles O30: the check puts each axis in order, so it is the same for either order of the corners. -/
theorem cornerOrderDoesNotMatter : Obligations.CornerOrderDoesNotMatter := fun x0 y0 x1 y1 c565 c888 ptr len s op hop =>
  ⟨exec_rectangle_congr (windowCheck_swap_columns s x0 y0 x1 y1) c565 c888 ptr len op hop,
    exec_rectangle_congr (windowCheck_swap_rows s x0 y0 x1 y1) c565 c888 ptr len op hop⟩

/-! Colours (43_color.md R171 to R175). -/

/-- A 5-bit channel widened is the channel followed by a copy of its top bit (43_color.md R171). -/
theorem widen5_eq_append (v : BitVec 5) : widen5 v = v ++ v.extractLsb' 4 1 := by
  revert v
  decide

theorem widen5_extractLsb' {n : Nat} (c : BitVec n) (k : Nat) :
    widen5 (c.extractLsb' k 5) = c.extractLsb' k 5 ++ c.extractLsb' (k + 4) 1 := by
  have htop : (c.extractLsb' k 5).extractLsb' 4 1 = c.extractLsb' (k + 4) 1 := by
    ext i hi
    have hinside : 4 + i < 5 := by omega
    simp [hinside, Nat.add_assoc]
  rw [widen5_eq_append, htop]

/-- Settles O45: no guard and no test; the response word is the three channels below fourteen zero bits. -/
theorem rgb565ConversionAnswersItsChannelBits : Obligations.Rgb565ConversionAnswersItsChannelBits := by
  intro c565 s
  have hword : colorResult (rgb565ToRgb666 c565).value =
      (0#14 ++ c565.extractLsb' 11 5 ++ c565.extractLsb' 15 1 ++ c565.extractLsb' 5 6 ++ c565.extractLsb' 0 5 ++
        c565.extractLsb' 4 1 : BitVec 32) := by
    rw [colorResult_value, rgb565ToRgb666, widen5_extractLsb', widen5_extractLsb']
    exact BitVec.append_assoc'.trans (congrArg (fun red => red ++ c565.extractLsb' 5 6 ++ c565.extractLsb' 0 5 ++
      c565.extractLsb' 4 1) BitVec.append_assoc')
  calc exec (.rgb565ToRgb666 c565) s
      = .next (respond (colorResult (rgb565ToRgb666 c565).value) s) := rfl
    _ = _ := by rw [hword]; rfl

/-- Widening keeps the bits of a channel in its top bits (43_color.md R174). -/
theorem widen6_top (x : BitVec 6) : (widen6 x).extractLsb' 2 6 = x := by
  revert x
  decide

theorem widen6_widen5_top (v : BitVec 5) : (widen6 (widen5 v)).extractLsb' 3 5 = v := by
  revert v
  decide

/-- Settles O47: channel by channel; the extremes are closed, and a pixel's bytes are its channels by definition. -/
theorem colourRoundTripKeepsTheChannels : Obligations.ColourRoundTripKeepsTheChannels :=
  ⟨fun _ => ⟨widen6_widen5_top _, widen6_top _, widen6_widen5_top _⟩, by decide, by decide, by decide, by decide,
    fun _ => rfl, fun c => by rw [pix888, pixelBytes, rgb888ToRgb666_eq]⟩

end Sys2Proof.Machine
end

section
/-! The pixel count of a window (44_drawing.md R191), the screen as a window (R187, R188), and the array operations
(R189, R190). -/

namespace Sys2Proof.Machine

/-- A window that passed its check has its corners in order (42_addressing.md R144). -/
theorem windowCheck_ordered {s : State} {x0 y0 x1 y1 : Half} {w : Rect} (hw : windowCheck s x0 y0 x1 y1 = some w) :
    w.a0.toNat ≤ w.a1.toNat ∧ w.b0.toNat ≤ w.b1.toNat := by
  obtain ⟨hcorners, _⟩ := windowCheck_eq_some.mp hw
  obtain ⟨ha0, ha1, hb0, hb1⟩ := Rect.eq_ofCorners_iff.mp hcorners
  omega

/-- Settles O41: columns and rows are bounded by the logical size, which is the panel's, turned or not. -/
theorem pixelCountStaysInRange : Obligations.PixelCountStaysInRange := by
  intro s x0 y0 x1 y1 w hsize hw
  obtain ⟨_, hright, hbottom, _⟩ := windowCheck_eq_some.mp hw
  rw [BitVec.lt_def] at hright hbottom
  have hcolumns : w.columns ≤ s.width.toNat := by rw [Rect.columns]; omega
  have hrows : w.rows ≤ s.height.toNat := by rw [Rect.rows]; omega
  have harea : s.width.toNat * s.height.toNat = s.cfg.panelW.toNat * s.cfg.panelH.toNat := by
    unfold sizeMatchesRotation at hsize
    split at hsize <;> obtain ⟨hwidth, hheight⟩ := hsize <;> rw [hwidth, hheight]
    exact Nat.mul_comm _ _
  have hpanel : w.pixels ≤ s.width.toNat * s.height.toNat := Nat.mul_le_mul hcolumns hrows
  have hword : s.width.toNat * s.height.toNat ≤ (2 ^ 16 - 1) * (2 ^ 16 - 1) :=
    Nat.mul_le_mul (by omega) (by omega)
  refine ⟨Nat.le_add_left _ _, hcolumns, Nat.le_add_left _ _, hrows, w.pixels_pos, harea ▸ hpanel, ?_⟩
  exact (hpanel.trans hword).trans (by decide)

/-! The screen as a window. -/

section
variable {s : State}

/-- The rectangle of the whole logical screen (44_drawing.md R187). -/
def screen (s : State) : Rect := ⟨0, 0, s.width - 1, s.height - 1⟩

theorem ofCorners_screen (s : State) : Rect.ofCorners 0 0 (s.width - 1) (s.height - 1) = screen s := by
  refine (Rect.eq_ofCorners_iff.mpr ?_).symm
  simp [screen]

theorem screen_pixels (hwidth : s.width ≠ 0) (hheight : s.height ≠ 0) :
    (screen s).pixels = s.width.toNat * s.height.toNat := by
  have hcolumns : (screen s).columns = s.width.toNat := by simp only [Rect.columns, screen]; bv_omega
  have hrows : (screen s).rows = s.height.toNat := by simp only [Rect.rows, screen]; bv_omega
  rw [Rect.pixels, hcolumns, hrows]

/-- The check passes the screen exactly where the band leaves no row out (42_addressing.md R144, 44_drawing.md R187). -/
theorem windowCheck_screen_eq_some (hwidth : s.width ≠ 0) (hheight : s.height ≠ 0) :
    windowCheck s 0 0 (s.width - 1) (s.height - 1) = some (screen s) ↔
      (s.partialOn = true → s.partY0 = 0 ∧ s.height - 1 ≤ s.partY1) := by
  have hright : (screen s).a1 < s.width := by simp only [screen]; bv_omega
  have hbottom : (screen s).b1 < s.height := by simp only [screen]; bv_omega
  have hfirst : s.partY0 ≤ 0 ↔ s.partY0 = 0 := by bv_omega
  rw [windowCheck_eq_some, ofCorners_screen]
  simp only [hright, hbottom, true_and]
  simp only [screen, hfirst]

theorem windowCheck_screen_eq_none (hwidth : s.width ≠ 0) (hheight : s.height ≠ 0)
    (hband : ¬(s.partialOn = true → s.partY0 = 0 ∧ s.height - 1 ≤ s.partY1)) :
    windowCheck s 0 0 (s.width - 1) (s.height - 1) = none := by
  refine Option.eq_none_iff_forall_ne_some.mpr fun w hw =>
    hband ((windowCheck_screen_eq_some hwidth hheight).mp ?_)
  obtain ⟨hcorners, _⟩ := windowCheck_eq_some.mp hw
  rwa [hcorners, ofCorners_screen] at hw

end

/-- Both formats of `fillScreen` are the same fill, of the three bytes of their colour (44_drawing.md R187, R188). -/
theorem exec_fillScreen_formats {c565 : Half} {c888 : Imm} {ip : Instr × List Byte}
    (hip : ip ∈ [(Instr.fillScreen c565, pix565 c565), (Instr.fillScreenRGB24 c888, pix888 c888)]) (s : State) :
    ip.2.length = 3 ∧
      exec ip.1 s = whenReady s (conclude noResult (fillRect 0 0 (s.width - 1) (s.height - 1) ip.2 s)) := by
  simp only [List.mem_cons, List.not_mem_nil, or_false] at hip
  rcases hip with rfl | rfl <;> exact ⟨rfl, rfl⟩

/-- Settles O38: the guard, then the fill of the screen by its three ends, as in O37. -/
theorem fillScreenFillsTheLogicalScreen : Obligations.FillScreenFillsTheLogicalScreen := by
  intro c565 c888 s hb hwidth hheight ip hip
  obtain ⟨hp, hexec⟩ := exec_fillScreen_formats hip s
  have hpass := windowCheck_screen_eq_some hwidth hheight
  rw [hexec, ← screen_pixels hwidth hheight]
  exact ⟨fun hready hband hidle =>
      ⟨0, s.seqIndex, whenReady_conclude_ok hready (fillRect_idle (hpass.mpr hband) hidle hb hp) noResult⟩,
    fun hready hband => whenReady_conclude_ok hready
      (fillRect_of_none (windowCheck_screen_eq_none hwidth hheight hband) ip.2) noResult,
    fun hready hband hbusy => whenReady_conclude_error hready (fillRect_busy (hpass.mpr hband) hbusy ip.2) noResult,
    fun hready => whenReady_notReady hready _⟩

/-! The elements of a colour array as bytes (20_memory.md R51, R52). -/

theorem toNat_append_eq_add {n m : Nat} (x : BitVec n) (y : BitVec m) :
    (x ++ y).toNat = y.toNat + 2 ^ m * x.toNat := by
  rw [BitVec.toNat_append, Nat.shiftLeft_eq, Nat.mul_comm, ← Nat.two_pow_add_eq_or_of_lt y.isLt, Nat.add_comm]

theorem colorRead16_eq_bytes (m : Memory) (base i : Nat) :
    colorRead16 m base i = readByte m (base + 2 * i + 1) ++ readByte m (base + 2 * i) := by
  refine BitVec.eq_of_toNat_eq ?_
  rw [toNat_append_eq_add]
  simp only [colorRead16, memRead, BitVec.toNat_ofNat]
  omega

/-- The fourth byte of an RGB888 element is read and cut off (20_memory.md R52). -/
theorem colorRead24_eq_bytes (m : Memory) (base i : Nat) :
    colorRead24 m base i =
      readByte m (base + 4 * i + 2) ++ readByte m (base + 4 * i + 1) ++ readByte m (base + 4 * i) := by
  refine BitVec.eq_of_toNat_eq ?_
  rw [toNat_append_eq_add, toNat_append_eq_add]
  simp only [colorRead24, memRead, BitVec.toNat_ofNat, Nat.add_assoc, Nat.reduceAdd]
  omega

section
variable {f : ArrayFormat} {x0 y0 x1 y1 : Half} {ptr len : Word} {s : State} {w : Rect}

/-- On an idle bus the window and the array's pixels are sent, in frames of at most a batch (44_drawing.md R182,
R189). -/
theorem writeRect_idle (hptr : ptr ≠ 0) (hlen : len ≠ 0) (hw : windowCheck s x0 y0 x1 y1 = some w)
    (hrange : ptr.toNat + f.elementBytes * min len.toNat w.pixels ≤ addressSpace s.cfg) (hidle : s.xfer = .idle)
    (hb : 0 < s.cfg.batchPixels.toNat) :
    ∃ b, (s.batch.length = 3 * s.cfg.batchPixels.toNat → b.length = 3 * s.cfg.batchPixels.toNat) ∧
      writeRect f x0 y0 x1 y1 ptr len s = .ok { s with
        trace := s.trace ++ (windowEvents w ++
          pixelEvents s.cfg.batchPixels.toNat w.pixels fun q => f.pixel s.mem ptr.toNat (q % len.toNat))
        cs := .released, dc := .data, batch := b
        seqState := .seqIdle, seqRemaining := 0, seqIndex := BitVec.ofNat 32 w.pixels } := by
  obtain ⟨b, hsize, hdraw⟩ := drawWindow_pixels_idle f ptr len w hidle hb
  exact ⟨b, fun h => (hsize h.ge).trans h, (writeRect_of_some hptr hlen hw hrange).trans hdraw⟩

theorem writeRect_busy (hptr : ptr ≠ 0) (hlen : len ≠ 0) (hw : windowCheck s x0 y0 x1 y1 = some w)
    (hrange : ptr.toNat + f.elementBytes * min len.toNat w.pixels ≤ addressSpace s.cfg) (hbusy : s.xfer ≠ .idle) :
    writeRect f x0 y0 x1 y1 ptr len s = .error .busConflict :=
  (writeRect_of_some hptr hlen hw hrange).trans (drawWindow_busy w _ hbusy)

/-- Nothing to write, or a rejected window: no event (44_drawing.md R189). -/
theorem writeRect_nothing (h : ptr = 0 ∨ len = 0 ∨ windowCheck s x0 y0 x1 y1 = none) :
    writeRect f x0 y0 x1 y1 ptr len s = .ok s := by
  rcases h with hptr | hlen | hw
  · exact writeRect_null (.inl hptr) s
  · exact writeRect_null (.inr hlen) s
  · exact writeRect_of_none hw

end

/-- How an operation that is a bulk write behind the guard ends, in either format: the range's test before the bus's
(44_drawing.md R189, R190). -/
theorem exec_writeRect_ends {i : Instr} {f : ArrayFormat} {x0 y0 x1 y1 : Half} {ptr len : Word} {s : State}
    (hexec : exec i s = whenReady s (conclude noResult (writeRect f x0 y0 x1 y1 ptr len s)))
    (hb : 0 < s.cfg.batchPixels.toNat) :
    (∀ w, s.phase = .ready → ptr ≠ 0 → len ≠ 0 → windowCheck s x0 y0 x1 y1 = some w →
      (ptr.toNat + f.elementBytes * min len.toNat w.pixels > addressSpace s.cfg → exec i s = .fault .badRange) ∧
      (ptr.toNat + f.elementBytes * min len.toNat w.pixels ≤ addressSpace s.cfg → s.xfer ≠ .idle →
        exec i s = .fault .busConflict) ∧
      (ptr.toNat + f.elementBytes * min len.toNat w.pixels ≤ addressSpace s.cfg → s.xfer = .idle →
        ∃ b r j, (s.batch.length = 3 * s.cfg.batchPixels.toNat → b.length = 3 * s.cfg.batchPixels.toNat) ∧
          exec i s = .next { s with
            trace := s.trace ++ (windowEvents w ++
              pixelEvents s.cfg.batchPixels.toNat w.pixels fun q => f.pixel s.mem ptr.toNat (q % len.toNat))
            cs := .released, dc := .data, batch := b
            seqState := .seqIdle, seqRemaining := r, seqIndex := j
            responses := s.responses ++ [0] })) ∧
    (s.phase = .ready → ptr = 0 ∨ len = 0 ∨ windowCheck s x0 y0 x1 y1 = none →
      exec i s = .next { s with responses := s.responses ++ [0] }) ∧
    (s.phase ≠ .ready → exec i s = .fault .notReady) := by
  rw [hexec]
  refine ⟨fun w hready hptr hlen hw => ⟨fun hrange => ?_, fun hrange hbusy => ?_, fun hrange hidle => ?_⟩,
    fun hready hnothing => ?_, fun hready => whenReady_notReady hready _⟩
  · exact whenReady_conclude_error hready (writeRect_badRange hptr hlen hw hrange) noResult
  · exact whenReady_conclude_error hready (writeRect_busy hptr hlen hw hrange hbusy) noResult
  · obtain ⟨b, hsize, hrun⟩ := writeRect_idle hptr hlen hw hrange hidle hb
    exact ⟨b, 0, _, hsize, whenReady_conclude_ok hready hrun noResult⟩
  · exact whenReady_conclude_ok hready (writeRect_nothing hnothing) noResult

/-- Settles O39: a bulk write of two-byte elements. -/
theorem writePixelsStreamsTheArray : Obligations.WritePixelsStreamsTheArray := by
  intro x0 y0 x1 y1 ptr len s hb
  have hends := exec_writeRect_ends (i := .writePixels x0 y0 x1 y1 ptr len) rfl hb
  simp only [ArrayFormat.pixel, colorRead16_eq_bytes] at hends
  exact hends

/-- Settles O40: a bulk write of four-byte elements. -/
theorem writePixelsRgb24StreamsTheArray : Obligations.WritePixelsRgb24StreamsTheArray := by
  intro x0 y0 x1 y1 ptr len s hb
  have hends := exec_writeRect_ends (i := .writePixelsRGB24 x0 y0 x1 y1 ptr len) rfl hb
  simp only [ArrayFormat.pixel, colorRead24_eq_bytes] at hends
  exact hends

end Sys2Proof.Machine
end

section
/-! The wire as a stream of tagged bytes (00_scope.md R9): what the frames of a window and of a drawing carry, and how
many events they are (70_reset_and_hazards.md R255). -/

namespace Sys2Proof.Machine

/-- The bytes of `n` pixels, in order. -/
def pixelStream (n : Nat) (pixel : Nat → List Byte) : List Byte := (List.range n).flatMap pixel

theorem pixelStream_succ (n : Nat) (pixel : Nat → List Byte) :
    pixelStream (n + 1) pixel = pixelStream n pixel ++ pixel n := by
  simp [pixelStream, List.range_succ]

theorem pixelStream_add (k n : Nat) (pixel : Nat → List Byte) :
    pixelStream (k + n) pixel = pixelStream k pixel ++ pixelStream n fun q => pixel (k + q) := by
  simp [pixelStream, List.range_add, List.flatMap_map]

theorem pixelStream_const (n : Nat) (p : List Byte) : pixelStream n (fun _ => p) = rep n p := by
  simp [pixelStream, rep, List.flatMap, List.map_const']

/-- A fill is the stream of pixels that all have its bytes (44_drawing.md R181, R182). -/
theorem fillEvents_eq_pixelEvents {batch : Nat} (hb : 0 < batch) (n : Nat) (p : List Byte) :
    fillEvents batch n p = pixelEvents batch n fun _ => p := by
  induction n using Nat.strong_induction_on with
  | _ n ih =>
    by_cases hn : n = 0
    · rw [hn, fillEvents_zero, pixelEvents_zero hb]
    · rw [fillEvents_step hb (by omega), pixelEvents_step hb (by omega), ih _ (by omega), ← pixelStream_const,
        pixelStream]

/-- A frame's bytes carry its tag, which stays the current one (40_transport.md R100, 00_scope.md R9). -/
theorem streamFrom_frameEvents (current : Option Tag) (t : Tag) (bytes : List Byte) (es : List Event) :
    streamFrom current (frameEvents t bytes ++ es) = bytes.map (fun b => (t, b)) ++ streamFrom (some t) es := by
  have htx : streamFrom (some t) (bytes.map .tx ++ .cs .released :: es) =
      bytes.map (fun b => (t, b)) ++ streamFrom (some t) es := by
    induction bytes with
    | nil => rfl
    | cons b bytes ih => exact congrArg ((t, b) :: ·) ih
  rw [← htx, frameEvents]
  simp [streamFrom]

/-- The bytes of a stream of pixels, whatever the batch (44_drawing.md R182). -/
theorem streamFrom_pixelEvents {batch : Nat} (hb : 0 < batch) (current : Option Tag) (n : Nat)
    (pixel : Nat → List Byte) :
    streamFrom current (pixelEvents batch n pixel) = (pixelStream n pixel).map fun b => (Tag.data, b) := by
  induction n using Nat.strong_induction_on generalizing current pixel with
  | _ n ih =>
    by_cases hn : n = 0
    · rw [hn, pixelEvents_zero hb]
      rfl
    · have hsplit : min n batch + (n - min n batch) = n := by omega
      rw [pixelEvents_step hb (by omega), streamFrom_frameEvents, ih _ (by omega), ← List.map_append]
      conv_rhs => rw [← hsplit, pixelStream_add]
      rfl

/-- The bytes of a window's three commands (42_addressing.md R145). -/
def windowStream (w : Rect) : List (Tag × Byte) :=
  [(.command, 0x2A), (.data, hi8 w.a0), (.data, lo8 w.a0), (.data, hi8 w.a1), (.data, lo8 w.a1),
    (.command, 0x2B), (.data, hi8 w.b0), (.data, lo8 w.b0), (.data, hi8 w.b1), (.data, lo8 w.b1), (.command, 0x2C)]

theorem stream_windowEvents (w : Rect) (es : List Event) :
    stream (windowEvents w ++ es) = windowStream w ++ streamFrom (some .command) es := rfl

/-- The bytes of a window and its pixels. -/
theorem stream_window_pixels {batch : Nat} (hb : 0 < batch) (w : Rect) (n : Nat) (pixel : Nat → List Byte) :
    stream (windowEvents w ++ pixelEvents batch n pixel) =
      windowStream w ++ (pixelStream n pixel).map fun b => (Tag.data, b) := by
  rw [stream_windowEvents, streamFrom_pixelEvents hb]

theorem frameEvents_length (t : Tag) (bytes : List Byte) : (frameEvents t bytes).length = bytes.length + 3 := by
  simp [frameEvents]

theorem windowEvents_length (w : Rect) : (windowEvents w).length = 26 := rfl

/-- Three bytes a pixel and three more events a batch (70_reset_and_hazards.md R255). -/
theorem pixelEvents_length {batch : Nat} (hb : 0 < batch) (n : Nat) {pixel : Nat → List Byte}
    (hp : ∀ q, (pixel q).length = 3) :
    (pixelEvents batch n pixel).length = 3 * n + 3 * ((n + batch - 1) / batch) := by
  induction n using Nat.strong_induction_on generalizing pixel with
  | _ n ih =>
    by_cases hn : n = 0
    · rw [hn, pixelEvents_zero hb, Nat.div_eq_of_lt (by omega)]
      rfl
    · have hceil : (n + batch - 1) / batch = (n - min n batch + batch - 1) / batch + 1 := by
        rcases Nat.le_total n batch with hle | hle
        · rw [Nat.min_eq_left hle, show n + batch - 1 = n - 1 + batch by omega, Nat.add_div_right _ hb,
            Nat.div_eq_of_lt (by omega), Nat.div_eq_of_lt (by omega)]
        · rw [Nat.min_eq_right hle, show n + batch - 1 = n - batch + batch - 1 + batch by omega,
            Nat.add_div_right _ hb]
      rw [pixelEvents_step hb (by omega), List.length_append, frameEvents_length, flatMap_length_three hp,
        List.length_range, ih _ (by omega) (fun q => hp _), hceil]
      omega

/-- A fill of a window that passed its check on an idle bus, its events as a stream of equal pixels
(44_drawing.md R185). -/
theorem exec_fillRect_next {i : Instr} {x0 y0 x1 y1 : Half} {p : List Byte} {s : State} {w : Rect}
    (hexec : exec i s = whenReady s (conclude noResult (fillRect x0 y0 x1 y1 p s))) (hp : p.length = 3)
    (hb : 0 < s.cfg.batchPixels.toNat) (hready : s.phase = .ready) (hidle : s.xfer = .idle)
    (hw : windowCheck s x0 y0 x1 y1 = some w) :
    ∃ t, exec i s = .next t ∧
      t.trace = s.trace ++ (windowEvents w ++ pixelEvents s.cfg.batchPixels.toNat w.pixels fun _ => p) := by
  refine ⟨_, hexec.trans (whenReady_conclude_ok hready (fillRect_idle hw hidle hb hp) noResult), ?_⟩
  rw [← fillEvents_eq_pixelEvents hb]
  rfl

/-- Settles O42: the window's 26 events and the pixels' on the trace; the stream is theirs without the line events. -/
theorem fillsHaveTheirEventCount : Obligations.FillsHaveTheirEventCount := by
  intro x0 y0 x1 y1 c565 s w hb hready hidle hw
  obtain ⟨t, hrun, htrace⟩ := exec_fillRect_next (i := .fillArea x0 y0 x1 y1 c565) rfl (pix565_length c565) hb hready
    hidle hw
  refine ⟨t, _, hrun, htrace, ?_, ?_⟩
  · rw [List.length_append, windowEvents_length, pixelEvents_length hb _ fun _ => pix565_length c565, Nat.add_assoc]
  · rw [stream_window_pixels hb, pixelStream_const]
    rfl

end Sys2Proof.Machine
end

section
/-! The reference sink (20_memory.md R64) fed a window and its pixels: pixel `q` lands on the `q`-th cell of the window
in raster order (44_drawing.md R192). -/

namespace Sys2Proof.Machine

/-- The cell of pixel `q` of a window, in raster order (44_drawing.md R192). -/
def rasterCell (w : Rect) (q : Nat) : Nat × Nat := (w.a0.toNat + q % w.columns, w.b0.toNat + q / w.columns)

/-- A colour as the three bytes of its pixel (43_color.md R175). -/
def wireColour (p : Rgb666) : Byte × Byte × Byte := (p.r.setWidth 8, p.g.setWidth 8, p.b.setWidth 8)

/-- The sink after the commands of window `w` and `n` whole pixels, pixel `q` with the colour `c q`. -/
def painted (w : Rect) (c : Nat → Rgb666) (n : Nat) : Sink where
  xs := w.a0
  xe := w.a1
  ys := w.b0
  ye := w.b1
  cx := (rasterCell w n).1
  cy := (rasterCell w n).2
  mode := .mem
  acc := []
  gram := ((List.range n).map fun q => (rasterCell w q, wireColour (c q))).reverse

theorem painted_succ (w : Rect) (c : Nat → Rgb666) (n : Nat) :
    painted w c (n + 1) = { painted w c n with
      cx := (rasterCell w (n + 1)).1, cy := (rasterCell w (n + 1)).2
      gram := (rasterCell w n, wireColour (c n)) :: (painted w c n).gram } := by
  simp [painted, List.range_succ]

theorem feed_append (k : Sink) (st st' : List (Tag × Byte)) :
    k.feed (st ++ st') = (k.feed st >>= fun k => k.feed st') := by
  induction st generalizing k with
  | nil => rfl
  | cons e st ih =>
    obtain ⟨t | t, b⟩ := e
    · exact ih (k.command b)
    · rw [List.cons_append, Sink.feed, Sink.feed]
      cases k.data b with
      | ok k => exact ih k
      | error => rfl

/-- The three commands set the bounds and put the cursor at the window's first cell, whatever the sink held
(20_memory.md R64). -/
theorem feed_windowStream (w : Rect) (c : Nat → Rgb666) : Sink.fresh.feed (windowStream w) = .ok (painted w c 0) := by
  have hbytes : Sink.fresh.feed (windowStream w) = .ok { painted w c 0 with
      xs := ofBigEndian (hi8 w.a0) (lo8 w.a0), xe := ofBigEndian (hi8 w.a1) (lo8 w.a1)
      ys := ofBigEndian (hi8 w.b0) (lo8 w.b0), ye := ofBigEndian (hi8 w.b1) (lo8 w.b1)
      cx := (ofBigEndian (hi8 w.a0) (lo8 w.a0)).toNat, cy := (ofBigEndian (hi8 w.b0) (lo8 w.b0)).toNat } := rfl
  rw [hbytes]
  simp [ofBigEndian_bytes, painted, rasterCell]

theorem Rect.columns_pos (w : Rect) : 0 < w.columns := Nat.succ_pos _

section
variable {w : Rect} (hcolumns : w.a0.toNat ≤ w.a1.toNat) (hrows : w.b0.toNat ≤ w.b1.toNat)
include hcolumns

/-- The cell after a cell: the next column, or the first of the next row after the last (44_drawing.md R192). -/
theorem rasterCell_succ (q : Nat) :
    rasterCell w (q + 1) =
      if (rasterCell w q).1 + 1 > w.a1.toNat then (w.a0.toNat, (rasterCell w q).2 + 1)
      else ((rasterCell w q).1 + 1, (rasterCell w q).2) := by
  have hmod : q % w.columns < w.columns := Nat.mod_lt _ w.columns_pos
  have hdiv := Nat.div_add_mod q w.columns
  have hlast : (rasterCell w q).1 + 1 > w.a1.toNat ↔ q % w.columns + 1 = w.columns := by
    simp only [rasterCell, Rect.columns] at hmod ⊢
    omega
  by_cases hend : q % w.columns + 1 = w.columns
  · have hnext : q + 1 = w.columns * (q / w.columns + 1) := by rw [Nat.mul_add]; omega
    rw [if_pos (hlast.mpr hend), rasterCell, rasterCell, hnext, Nat.mul_mod_right,
      Nat.mul_div_cancel_left _ w.columns_pos]
    rfl
  · have hinside : q % w.columns + 1 < w.columns := by omega
    have hnext : q + 1 = q % w.columns + 1 + w.columns * (q / w.columns) := by omega
    rw [if_neg (mt hlast.mp hend), rasterCell, rasterCell]
    conv_lhs => rw [hnext, Nat.add_mul_mod_self_left, Nat.mod_eq_of_lt hinside,
      Nat.add_mul_div_left _ _ w.columns_pos, Nat.div_eq_of_lt hinside, Nat.zero_add]
    rfl

include hrows

/-- The cells of the pixels of a window lie inside it, and every cell inside it is one of them. -/
theorem rasterCell_iff (x y : Nat) :
    (∃ q, q < w.pixels ∧ rasterCell w q = (x, y)) ↔
      w.a0.toNat ≤ x ∧ x ≤ w.a1.toNat ∧ w.b0.toNat ≤ y ∧ y ≤ w.b1.toNat := by
  constructor
  · rintro ⟨q, hq, hcell⟩
    have hmod : q % w.columns < w.columns := Nat.mod_lt _ w.columns_pos
    have hdiv : q / w.columns < w.rows := Nat.div_lt_of_lt_mul hq
    simp only [rasterCell, Prod.mk.injEq] at hcell
    obtain ⟨hx, hy⟩ := hcell
    have hleft : w.a0.toNat ≤ x ∧ w.b0.toNat ≤ y := ⟨hx ▸ Nat.le_add_right _ _, hy ▸ Nat.le_add_right _ _⟩
    have hright : w.a0.toNat + w.columns = w.a1.toNat + 1 := by rw [Rect.columns]; omega
    have hbottom : w.b0.toNat + w.rows = w.b1.toNat + 1 := by rw [Rect.rows]; omega
    omega
  · rintro ⟨hx, hx', hy, hy'⟩
    have hcolumn : x - w.a0.toNat < w.columns := by rw [Rect.columns]; omega
    have hrow : y - w.b0.toNat < w.rows := by rw [Rect.rows]; omega
    refine ⟨x - w.a0.toNat + w.columns * (y - w.b0.toNat), ?_, ?_⟩
    · calc x - w.a0.toNat + w.columns * (y - w.b0.toNat)
          < w.columns + w.columns * (y - w.b0.toNat) := Nat.add_lt_add_right hcolumn _
        _ = w.columns * (y - w.b0.toNat + 1) := by rw [Nat.mul_add, Nat.mul_one, Nat.add_comm]
        _ ≤ w.columns * w.rows := Nat.mul_le_mul_left _ hrow
    · rw [rasterCell, Nat.add_mul_mod_self_left, Nat.mod_eq_of_lt hcolumn, Nat.add_mul_div_left _ _ w.columns_pos,
        Nat.div_eq_of_lt hcolumn]
      exact Prod.ext (by simp only []; omega) (by simp only []; omega)

/-- A whole pixel inside the window: its cell is written and the cursor is at the next cell (20_memory.md R64). -/
theorem feed_pixel (c : Nat → Rgb666) {n : Nat} (hn : n < w.pixels) :
    (painted w c n).feed ((pixelBytes (c n)).map fun b => (Tag.data, b)) = .ok (painted w c (n + 1)) := by
  have hinside : ¬(rasterCell w n).2 > w.b1.toNat := by
    obtain ⟨_, _, _, hy⟩ := (rasterCell_iff hcolumns hrows (rasterCell w n).1 (rasterCell w n).2).mp ⟨n, hn, rfl⟩
    omega
  have hpixel : ({ painted w c n with acc := [(c n).r.setWidth 8, (c n).g.setWidth 8] } : Sink).data
      ((c n).b.setWidth 8) = .ok (painted w c (n + 1)) := by
    have hnext := rasterCell_succ hcolumns n
    refine (if_neg hinside).trans ?_
    by_cases hend : (rasterCell w n).1 + 1 > w.a1.toNat
    · rw [painted_succ, hnext, if_pos hend]
      exact if_pos hend
    · rw [painted_succ, hnext, if_neg hend]
      exact if_neg hend
  have htwo : (painted w c n).feed ((pixelBytes (c n)).map fun b => (Tag.data, b)) =
      ({ painted w c n with acc := [(c n).r.setWidth 8, (c n).g.setWidth 8] } : Sink).feed
        [(.data, (c n).b.setWidth 8)] := rfl
  rw [htwo, Sink.feed, hpixel]
  rfl

theorem feed_pixelStream (c : Nat → Rgb666) {n : Nat} (hn : n ≤ w.pixels) :
    (painted w c 0).feed ((pixelStream n fun q => pixelBytes (c q)).map fun b => (Tag.data, b)) =
      .ok (painted w c n) := by
  induction n with
  | zero => rfl
  | succ n ih =>
    rw [pixelStream_succ, List.map_append, feed_append, ih (by omega)]
    exact feed_pixel hcolumns hrows c hn

/-- The events of a window and its pixels paint the window (20_memory.md R64, 44_drawing.md R192). -/
theorem feed_window_pixels {batch : Nat} (hb : 0 < batch) (c : Nat → Rgb666) :
    Sink.fresh.feed (stream (windowEvents w ++ pixelEvents batch w.pixels fun q => pixelBytes (c q))) =
      .ok (painted w c w.pixels) := by
  rw [stream_window_pixels hb, feed_append, feed_windowStream w c]
  exact feed_pixelStream hcolumns hrows c le_rfl

end

/-! What the painted sink holds at a cell. -/

theorem rasterCell_injective (w : Rect) {q r : Nat} (h : rasterCell w q = rasterCell w r) : q = r := by
  simp only [rasterCell, Prod.mk.injEq, Nat.add_left_cancel_iff] at h
  obtain ⟨hmod, hdiv⟩ := h
  rw [← Nat.div_add_mod q w.columns, ← Nat.div_add_mod r w.columns, hmod, hdiv]

theorem painted_at_succ (w : Rect) (c : Nat → Rgb666) (n x y : Nat) :
    (painted w c (n + 1)).at x y =
      if rasterCell w n = (x, y) then some (wireColour (c n)) else (painted w c n).at x y := by
  rw [painted_succ, Sink.at, List.find?_cons]
  by_cases hcell : rasterCell w n = (x, y) <;> simp [hcell, Sink.at]

theorem painted_at_cell (w : Rect) (c : Nat → Rgb666) {n q : Nat} (hq : q < n) :
    (painted w c n).at (rasterCell w q).1 (rasterCell w q).2 = some (wireColour (c q)) := by
  induction n with
  | zero => omega
  | succ n ih =>
    rw [painted_at_succ]
    by_cases hlast : q = n
    · rw [hlast, if_pos rfl]
    · rw [if_neg fun hcell => hlast (rasterCell_injective w hcell).symm, ih (by omega)]

theorem painted_at_elsewhere (w : Rect) (c : Nat → Rgb666) {n x y : Nat} (h : ∀ q < n, rasterCell w q ≠ (x, y)) :
    (painted w c n).at x y = none := by
  induction n with
  | zero => rfl
  | succ n ih => rw [painted_at_succ, if_neg (h n (by omega)), ih fun q hq => h q (by omega)]

/-- Outside the window the painted sink holds nothing. -/
theorem painted_at_outside {w : Rect} (hcolumns : w.a0.toNat ≤ w.a1.toNat) (hrows : w.b0.toNat ≤ w.b1.toNat)
    (c : Nat → Rgb666) {x y : Nat}
    (h : ¬(w.a0.toNat ≤ x ∧ x ≤ w.a1.toNat ∧ w.b0.toNat ≤ y ∧ y ≤ w.b1.toNat)) :
    (painted w c w.pixels).at x y = none :=
  painted_at_elsewhere w c fun q hq hcell => h ((rasterCell_iff hcolumns hrows x y).mp ⟨q, hq, hcell⟩)

/-- Settles O43: a fill's pixels all have one colour, and their cells are exactly those of the window. -/
theorem fillPaintsExactlyItsWindow : Obligations.FillPaintsExactlyItsWindow := by
  intro x0 y0 x1 y1 c565 c888 s w hb hready hidle hw ip hip
  have hexec : exec ip.1 s = whenReady s (conclude noResult (fillRect x0 y0 x1 y1 (pixelBytes ip.2) s)) := by
    simp only [List.mem_cons, List.not_mem_nil, or_false] at hip
    rcases hip with rfl | rfl <;> rfl
  obtain ⟨hcolumns, hrows⟩ := windowCheck_ordered hw
  obtain ⟨t, hrun, htrace⟩ := exec_fillRect_next hexec rfl hb hready hidle hw
  refine ⟨t, _, _, hrun, htrace, feed_window_pixels hcolumns hrows hb fun _ => ip.2, fun x y => ?_⟩
  split <;> rename_i hinside
  · obtain ⟨q, hq, hcell⟩ := (rasterCell_iff hcolumns hrows x y).mpr hinside
    have hat := painted_at_cell w (fun _ => ip.2) hq
    rwa [hcell] at hat
  · exact painted_at_outside hcolumns hrows _ hinside

/-- A bulk write of a window that passed its check on an idle bus, pixel `q` with the colour `c q` (44_drawing.md
R192). -/
theorem exec_writeRect_paints {i : Instr} {f : ArrayFormat} {x0 y0 x1 y1 : Half} {ptr len : Word} {s : State}
    {w : Rect} (hexec : exec i s = whenReady s (conclude noResult (writeRect f x0 y0 x1 y1 ptr len s)))
    (hb : 0 < s.cfg.batchPixels.toNat) (hready : s.phase = .ready) (hidle : s.xfer = .idle) (hptr : ptr ≠ 0)
    (hlen : len ≠ 0) (hw : windowCheck s x0 y0 x1 y1 = some w)
    (hrange : ptr.toNat + f.elementBytes * min len.toNat w.pixels ≤ addressSpace s.cfg) (c : Nat → Rgb666)
    (hcolour : ∀ q, f.pixel s.mem ptr.toNat (q % len.toNat) = pixelBytes (c q)) :
    ∃ t es, exec i s = .next t ∧ t.trace = s.trace ++ es ∧
      Sink.fresh.feed (stream es) = .ok (painted w c w.pixels) := by
  obtain ⟨hcolumns, hrows⟩ := windowCheck_ordered hw
  obtain ⟨b, _, hrun⟩ := writeRect_idle hptr hlen hw hrange hidle hb
  refine ⟨_, _, hexec.trans (whenReady_conclude_ok hready hrun noResult), rfl, ?_⟩
  simp only [hcolour]
  exact feed_window_pixels hcolumns hrows hb c

/-- Settles O44: the two formats' elements as colours, then the painted window's cells. -/
theorem writePixelsLandsInRasterOrder : Obligations.WritePixelsLandsInRasterOrder := by
  intro x0 y0 x1 y1 ptr len s w hb hready hidle hptr hlen hw byte op hop hrange
  obtain ⟨hcolumns, hrows⟩ := windowCheck_ordered hw
  obtain ⟨t, es, hrun, htrace, hfeed⟩ : ∃ t es, exec op.1 s = .next t ∧ t.trace = s.trace ++ es ∧
      Sink.fresh.feed (stream es) = .ok (painted w (fun q => op.2.2 (q % len.toNat)) w.pixels) := by
    simp only [List.mem_cons, List.not_mem_nil, or_false] at hop
    rcases hop with rfl | rfl
    · exact exec_writeRect_paints (f := .rgb565) rfl hb hready hidle hptr hlen hw hrange _ fun q => by
        rw [ArrayFormat.pixel, colorRead16_eq_bytes]
        rfl
    · exact exec_writeRect_paints (f := .rgb888) rfl hb hready hidle hptr hlen hw hrange _ fun q => by
        rw [ArrayFormat.pixel, colorRead24_eq_bytes]
        rfl
  exact ⟨t, es, _, hrun, htrace, hfeed, fun q hq => painted_at_cell w _ hq,
    fun x y => painted_at_outside hcolumns hrows _⟩

end Sys2Proof.Machine
end
